-- ==== Sys2Proof/Word.lean ====
section
/-! DEFINITION. The word types of the core: the widths of 00_scope R8 and the field widths of 30_encoding R81. -/

namespace Sys2Proof

/-- A byte of memory, a general register or a timer: 8 bits, unsigned (R8 `REG_W`). -/
abbrev Byte := BitVec 8

/-- An instruction word, the program counter, the index register or a return address: 16 bits. -/
abbrev Word := BitVec 16

/-- A register index or a button id: the 4-bit fields x and y (R14, R84), 0 to 15 by construction (R43). -/
abbrev RegIdx := BitVec 4

/-- The 12-bit address field nnn (R14). -/
abbrev Addr := BitVec 12

end Sys2Proof
end

