-- ==== Sys2Proof/Syntax.lean ====
section
/-! DEFINITION. The instructions of the core: one constructor per row of spec/opcode_table.json, and the names
under which the decoder rejects. -/

namespace Sys2Proof

/-- The 34 instructions (30_encoding R85, R91). Fields are those of R81: x and y are register indices, kk an 8-bit
immediate, n a 4-bit count, nnn a 12-bit address. -/
inductive Instr where
  /-- `00E0` CLS (R190). -/
  | cls
  /-- `00EE` RET (R117). -/
  | ret
  /-- `1nnn` JP nnn (R115). -/
  | jp (nnn : Addr)
  /-- `2nnn` CALL nnn (R116). -/
  | call (nnn : Addr)
  /-- `3xkk` SE Vx, kk (R111). -/
  | seImm (x : RegIdx) (kk : Byte)
  /-- `4xkk` SNE Vx, kk (R112). -/
  | sneImm (x : RegIdx) (kk : Byte)
  /-- `5xy0` SE Vx, Vy (R113). -/
  | seReg (x y : RegIdx)
  /-- `6xkk` LD Vx, kk (R141). -/
  | ldImm (x : RegIdx) (kk : Byte)
  /-- `7xkk` ADD Vx, kk (R142). -/
  | addImm (x : RegIdx) (kk : Byte)
  /-- `8xy0` LD Vx, Vy (R143). -/
  | ldReg (x y : RegIdx)
  /-- `8xy1` OR Vx, Vy (R144). -/
  | orReg (x y : RegIdx)
  /-- `8xy2` AND Vx, Vy (R145). -/
  | andReg (x y : RegIdx)
  /-- `8xy3` XOR Vx, Vy (R146). -/
  | xorReg (x y : RegIdx)
  /-- `8xy4` ADD Vx, Vy (R147). -/
  | addReg (x y : RegIdx)
  /-- `8xy5` SUB Vx, Vy (R148). -/
  | subReg (x y : RegIdx)
  /-- `8xy6` SHR Vx (R149); y is decoded and has no effect (R89). -/
  | shr (x y : RegIdx)
  /-- `8xy7` SUBN Vx, Vy (R150). -/
  | subnReg (x y : RegIdx)
  /-- `8xyE` SHL Vx (R151); y is decoded and has no effect (R89). -/
  | shl (x y : RegIdx)
  /-- `9xy0` SNE Vx, Vy (R114). -/
  | sneReg (x y : RegIdx)
  /-- `Annn` LD I, nnn (R170). -/
  | ldI (nnn : Addr)
  /-- `Bnnn` JP V0, nnn (R118). -/
  | jpV0 (nnn : Addr)
  /-- `Cxkk` RND Vx, kk (R224). -/
  | rnd (x : RegIdx) (kk : Byte)
  /-- `Dxyn` DRW Vx, Vy, n (R191). -/
  | drw (x y : RegIdx) (n : BitVec 4)
  /-- `Ex9E` SKP Vx (R211). -/
  | skp (x : RegIdx)
  /-- `ExA1` SKNP Vx (R212). -/
  | sknp (x : RegIdx)
  /-- `Fx07` LD Vx, DT (R220). -/
  | ldVxDt (x : RegIdx)
  /-- `Fx0A` LD Vx, K (R213). -/
  | ldVxK (x : RegIdx)
  /-- `Fx15` LD DT, Vx (R221). -/
  | ldDtVx (x : RegIdx)
  /-- `Fx18` LD ST, Vx (R222). -/
  | ldStVx (x : RegIdx)
  /-- `Fx1E` ADD I, Vx (R171). -/
  | addIVx (x : RegIdx)
  /-- `Fx29` LD F, Vx (R172). -/
  | ldFVx (x : RegIdx)
  /-- `Fx33` LD B, Vx (R173). -/
  | ldBVx (x : RegIdx)
  /-- `Fx55` LD [I], Vx (R174). -/
  | ldMemVx (x : RegIdx)
  /-- `Fx65` LD Vx, [I] (R175). -/
  | ldVxMem (x : RegIdx)
  deriving DecidableEq, Repr

/-- Why the decoder rejects. -/
inductive DecodeReject where
  /-- No row of the opcode map matches the word (R86, R87): carries the raw word. -/
  | decodeFailure (w : Word)
  /-- Fewer than the two bytes every instruction has (R80): raised by the decoder on bytes only, never by a tick,
  whose fetch always supplies two bytes. -/
  | truncated
  deriving DecidableEq, Repr

end Sys2Proof
end

