-- ==== Sys2Proof/Decode.lean ====
section
/-! DEFINITION. The decoder of 30_encoding R86, the decoder on bytes, and the encoder written from the same
formats (R82). -/

namespace Sys2Proof

/-- The major opcode w[15:12] (R81). -/
def fieldOp (w : Word) : BitVec 4 := w.extractLsb' 12 4

/-- The field x = w[11:8] (R81). -/
def fieldX (w : Word) : RegIdx := w.extractLsb' 8 4

/-- The field y = w[7:4] (R81). -/
def fieldY (w : Word) : RegIdx := w.extractLsb' 4 4

/-- The field n = w[3:0] (R81). -/
def fieldN (w : Word) : BitVec 4 := w.extractLsb' 0 4

/-- The field kk = w[7:0] (R81). -/
def fieldKK (w : Word) : Byte := w.extractLsb' 0 8

/-- The field nnn = w[11:0] (R81). -/
def fieldNNN (w : Word) : Addr := w.extractLsb' 0 12

/-- The group 8xyN by its minor nibble (R85, R86). -/
def decodeAlu (w : Word) : Except DecodeReject Instr :=
  let x := fieldX w
  let y := fieldY w
  if fieldN w = 0x0 then .ok (.ldReg x y)
  else if fieldN w = 0x1 then .ok (.orReg x y)
  else if fieldN w = 0x2 then .ok (.andReg x y)
  else if fieldN w = 0x3 then .ok (.xorReg x y)
  else if fieldN w = 0x4 then .ok (.addReg x y)
  else if fieldN w = 0x5 then .ok (.subReg x y)
  else if fieldN w = 0x6 then .ok (.shr x y)
  else if fieldN w = 0x7 then .ok (.subnReg x y)
  else if fieldN w = 0xE then .ok (.shl x y)
  else .error (.decodeFailure w)

/-- The group FxNN by its low byte (R85, R86). -/
def decodeMisc (w : Word) : Except DecodeReject Instr :=
  let x := fieldX w
  if fieldKK w = 0x07 then .ok (.ldVxDt x)
  else if fieldKK w = 0x0A then .ok (.ldVxK x)
  else if fieldKK w = 0x15 then .ok (.ldDtVx x)
  else if fieldKK w = 0x18 then .ok (.ldStVx x)
  else if fieldKK w = 0x1E then .ok (.addIVx x)
  else if fieldKK w = 0x29 then .ok (.ldFVx x)
  else if fieldKK w = 0x33 then .ok (.ldBVx x)
  else if fieldKK w = 0x55 then .ok (.ldMemVx x)
  else if fieldKK w = 0x65 then .ok (.ldVxMem x)
  else .error (.decodeFailure w)

/-- `Decode(w)` (R86): total on the 65536 words, rejecting every other word as a decode failure that carries it
(R87, R88). -/
def decodeWord (w : Word) : Except DecodeReject Instr :=
  if fieldOp w = 0x0 then
    if w = 0x00E0 then .ok .cls else if w = 0x00EE then .ok .ret else .error (.decodeFailure w)
  else if fieldOp w = 0x1 then .ok (.jp (fieldNNN w))
  else if fieldOp w = 0x2 then .ok (.call (fieldNNN w))
  else if fieldOp w = 0x3 then .ok (.seImm (fieldX w) (fieldKK w))
  else if fieldOp w = 0x4 then .ok (.sneImm (fieldX w) (fieldKK w))
  else if fieldOp w = 0x5 then
    if fieldN w = 0x0 then .ok (.seReg (fieldX w) (fieldY w)) else .error (.decodeFailure w)
  else if fieldOp w = 0x6 then .ok (.ldImm (fieldX w) (fieldKK w))
  else if fieldOp w = 0x7 then .ok (.addImm (fieldX w) (fieldKK w))
  else if fieldOp w = 0x8 then decodeAlu w
  else if fieldOp w = 0x9 then
    if fieldN w = 0x0 then .ok (.sneReg (fieldX w) (fieldY w)) else .error (.decodeFailure w)
  else if fieldOp w = 0xA then .ok (.ldI (fieldNNN w))
  else if fieldOp w = 0xB then .ok (.jpV0 (fieldNNN w))
  else if fieldOp w = 0xC then .ok (.rnd (fieldX w) (fieldKK w))
  else if fieldOp w = 0xD then .ok (.drw (fieldX w) (fieldY w) (fieldN w))
  else if fieldOp w = 0xE then
    if fieldKK w = 0x9E then .ok (.skp (fieldX w))
    else if fieldKK w = 0xA1 then .ok (.sknp (fieldX w))
    else .error (.decodeFailure w)
  else decodeMisc w

/-- A word from its two bytes, the first (lower address) the more significant (20_memory R51, R52). -/
def wordOfBytes (hi lo : Byte) : Word := hi ++ lo

/-- The more significant byte of a word, the one stored at the lower address (R51). -/
def byteHi (w : Word) : Byte := w.extractLsb' 8 8

/-- The less significant byte of a word, the one stored at the higher address (R51). -/
def byteLo (w : Word) : Byte := w.extractLsb' 0 8

/-- The decoder on bytes: consumes exactly two (R80) and returns the instruction with the rest. -/
def decodeBytes : List Byte → Except DecodeReject (Instr × List Byte)
  | hi :: lo :: rest =>
    match decodeWord (wordOfBytes hi lo) with
    | .ok i => .ok (i, rest)
    | .error e => .error e
  | _ => .error .truncated

/-- The instruction the decoder reads from a word of `nbits` bits as spec/opcode_table.json numbers them: bits above
`nbits` are 0, and the word is laid out big-endian (R51). -/
def decodeTableWord (nbits w : Nat) : Option Instr :=
  let word : Word := BitVec.ofNat 16 (w % 2 ^ nbits)
  match decodeBytes [byteHi word, byteLo word] with
  | .ok (i, _) => some i
  | .error _ => none

/-- Format A: op and a 12-bit address (R82). -/
def encodeA (op : BitVec 4) (nnn : Addr) : Word := op ++ nnn

/-- Format XK: op, x and an 8-bit immediate (R82). -/
def encodeXK (op : BitVec 4) (x : RegIdx) (kk : Byte) : Word := op ++ x ++ kk

/-- Formats XY and XYN: op, x, y and the low nibble, a minor opcode or a count (R82). -/
def encodeXYN (op : BitVec 4) (x y : RegIdx) (n : BitVec 4) : Word := op ++ x ++ y ++ n

/-- `encode`: the word of an instruction, from the formats of R82 and the opcode map of R85. -/
def encode : Instr → Word
  | .cls => 0x00E0
  | .ret => 0x00EE
  | .jp nnn => encodeA 0x1 nnn
  | .call nnn => encodeA 0x2 nnn
  | .seImm x kk => encodeXK 0x3 x kk
  | .sneImm x kk => encodeXK 0x4 x kk
  | .seReg x y => encodeXYN 0x5 x y 0x0
  | .ldImm x kk => encodeXK 0x6 x kk
  | .addImm x kk => encodeXK 0x7 x kk
  | .ldReg x y => encodeXYN 0x8 x y 0x0
  | .orReg x y => encodeXYN 0x8 x y 0x1
  | .andReg x y => encodeXYN 0x8 x y 0x2
  | .xorReg x y => encodeXYN 0x8 x y 0x3
  | .addReg x y => encodeXYN 0x8 x y 0x4
  | .subReg x y => encodeXYN 0x8 x y 0x5
  | .shr x y => encodeXYN 0x8 x y 0x6
  | .subnReg x y => encodeXYN 0x8 x y 0x7
  | .shl x y => encodeXYN 0x8 x y 0xE
  | .sneReg x y => encodeXYN 0x9 x y 0x0
  | .ldI nnn => encodeA 0xA nnn
  | .jpV0 nnn => encodeA 0xB nnn
  | .rnd x kk => encodeXK 0xC x kk
  | .drw x y n => encodeXYN 0xD x y n
  | .skp x => encodeXK 0xE x 0x9E
  | .sknp x => encodeXK 0xE x 0xA1
  | .ldVxDt x => encodeXK 0xF x 0x07
  | .ldVxK x => encodeXK 0xF x 0x0A
  | .ldDtVx x => encodeXK 0xF x 0x15
  | .ldStVx x => encodeXK 0xF x 0x18
  | .addIVx x => encodeXK 0xF x 0x1E
  | .ldFVx x => encodeXK 0xF x 0x29
  | .ldBVx x => encodeXK 0xF x 0x33
  | .ldMemVx x => encodeXK 0xF x 0x55
  | .ldVxMem x => encodeXK 0xF x 0x65

end Sys2Proof
end

