-- ==== Sys2Proof/Config.lean ====
section
/-! DEFINITION. What is fixed for a machine rather than changed by it: the spec's named arguments (00_scope R8), and
the host's free inputs (10_state R40), which have no body. -/

namespace Sys2Proof.Config

/-- `P_VF_DEST` (R8, 41_alu R140, decision D5): which write lands last when VF is the destination of a flag writer. -/
inductive VfDest where
  /-- The flag is written last (the spec's default). -/
  | flagWins
  /-- The result is written last. -/
  | resultWins
  deriving DecidableEq, Repr, Inhabited

/-- The named arguments of the model (R8). State holds one value of them, which no step writes; a statement about
every state therefore holds for every value. -/
structure Params where
  /-- `P_VF_DEST`. -/
  vfDest : VfDest
  /-- `FONT` (10_state R38): glyph d, byte j, for d and j below 16 and 5. -/
  font : Vector (Vector Byte 5) 16
  /-- One TIMER_PERIOD is `subdivision + 1` units of host time (60_exceptions R318; log entry 5). -/
  subdivision : Nat
  deriving DecidableEq, Repr

/-- The inputs of one tick (10_state R40, 60_exceptions R319). -/
structure TickInput where
  /-- `now`: the host time, in units of TIMER_PERIOD / (subdivision + 1). -/
  now : Nat
  /-- `Keys`: bit k is button k, 1 when pressed (44_input_timer_random R210). -/
  keys : BitVec 16
  /-- `Press`: none, or the button of a new press (R215). -/
  press : Option RegIdx
  /-- `RandByte` (R225). -/
  randByte : Byte
  /-- `terminate` (60_exceptions R302). -/
  terminate : Bool
  deriving DecidableEq, Repr, Inhabited

/-- The inputs the host supplies with tick number `n` of a run when State lists none: free values, any inputs at all
(93_implementation_defined U19 to U23; log entry 2). -/
opaque tickInput (n : Nat) : TickInput

end Sys2Proof.Config
end

