-- ==== Sys2Proof/Machine/Font.lean ====
section
/-! DEFINITION. The default values of the named arguments: the default font of 10_state R38 and the defaults of
00_scope R8. -/

namespace Sys2Proof.Machine

/-- The default `FONT` table of R38, one glyph a line, digits 0 to F. -/
def defaultFont : Vector (Vector Byte 5) 16 :=
  #v[#v[0xF0, 0x90, 0x90, 0x90, 0xF0],
     #v[0x20, 0x60, 0x20, 0x20, 0x70],
     #v[0xF0, 0x10, 0xF0, 0x80, 0xF0],
     #v[0xF0, 0x10, 0xF0, 0x10, 0xF0],
     #v[0x90, 0x90, 0xF0, 0x10, 0x10],
     #v[0xF0, 0x80, 0xF0, 0x10, 0xF0],
     #v[0xF0, 0x80, 0xF0, 0x90, 0xF0],
     #v[0xF0, 0x10, 0x20, 0x40, 0x40],
     #v[0xF0, 0x90, 0xF0, 0x90, 0xF0],
     #v[0xF0, 0x90, 0xF0, 0x10, 0xF0],
     #v[0xF0, 0x90, 0xF0, 0x90, 0x90],
     #v[0xE0, 0x90, 0xE0, 0x90, 0xE0],
     #v[0xF0, 0x80, 0x80, 0x80, 0xF0],
     #v[0xE0, 0x90, 0x90, 0x90, 0xE0],
     #v[0xF0, 0x80, 0xF0, 0x80, 0xF0],
     #v[0xF0, 0x80, 0xF0, 0x80, 0x80]]

/-- The default units of host time in one TIMER_PERIOD, less one: with 50,000,000 units a unit is a third of a
nanosecond, so 1/60 s and every whole number of nanoseconds are exact (R318; DESIGN CHOICE, log entry 5). -/
def defaultSubdivision : Nat := 49_999_999

/-- The defaults of R8: FlagWins (D5) and the default font (D15). -/
def defaultParams : Config.Params :=
  { vfDest := .flagWins, font := defaultFont, subdivision := defaultSubdivision }

/-- The number of time units in one TIMER_PERIOD = 1/60 s: never 0 (R318). -/
def periodUnits (p : Config.Params) : Nat := p.subdivision + 1

end Sys2Proof.Machine
end

