-- ==== Sys2Proof/Machine/State.lean ====
section
/-! DEFINITION. The state of the core (10_state, first paragraph), its faults and diagnostics (60_exceptions R303,
R306), the three outcomes' reason types, and the state after reset. Plain data throughout. -/

namespace Sys2Proof.Machine

open Sys2Proof

/-- Memory (10_state R33): the bytes that differ from the reset contents, as (address, byte) pairs, addresses strictly
rising. -/
abbrev Memory := List Host.Cell

/-- The framebuffer (10_state R34): 32 rows of 64 one-bit cells; column px of row py is bit px of entry py. -/
abbrev Framebuffer := Vector (BitVec 64) 32

/-- The three error kinds (60_exceptions R303). -/
inductive FaultKind where
  | imageLoadFailure
  | decodeFailure
  | preconditionViolation
  deriving DecidableEq, Repr

/-- The reasons a tick can fault, the rows of R303 with code 2 and codes 3.1 to 3.6. -/
inductive FaultReason where
  /-- Code 2: the fetched word matches no instruction (30_encoding R87). -/
  | decodeFailure
  /-- Code 3.1: CALL with SP = 16 (40_control_flow R116). -/
  | stackOverflow
  /-- Code 3.2: RET with SP = 0 (R117). -/
  | stackUnderflow
  /-- Code 3.3: a data range that passes 0xFFF (20_memory R55). -/
  | memoryOutOfRange
  /-- Code 3.4: a fetch with pc + 1 > 0xFFF (R53). -/
  | fetchOutOfRange
  /-- Code 3.5: Bnnn with nnn + V0 > 0xFFF (40_control_flow R118). -/
  | jumpOutOfRange
  /-- Code 3.6: Fx1E with I + V[x] > 0xFFFF (42_index_memory R171). -/
  | indexOverflow
  deriving DecidableEq, Repr

/-- A code of R303, as its number and the number after its point (0 where it has none). -/
structure FaultCode where
  major : Nat
  minor : Nat
  deriving DecidableEq, Repr

/-- The fault diagnostic (60_exceptions R306). Its code and kind are functions of the reason (`Diag.code`,
`Diag.kind` in Machine/Ops.lean), so they are computed and not stored twice. -/
structure Diag where
  reason : FaultReason
  /-- The pc of the faulting tick. -/
  addr : Word
  /-- The fetched word; none for FetchOutOfRange. -/
  word : Option Word
  deriving DecidableEq, Repr

/-- The run state (10_state R35). -/
inductive Run where
  /-- The next tick fetches at pc. -/
  | running
  /-- The next tick polls for a press that loads register x (44_input_timer_random R214). -/
  | awaitingKey (x : RegIdx)
  /-- A fatal condition ended the run. -/
  | faulted (d : Diag)
  /-- The host ended the run. -/
  | terminated
  deriving DecidableEq, Repr

/-- The output ports as the last tick left them (60_exceptions R319): the model's own field, not the spec's state. -/
structure Outputs where
  /-- `redraw`: the consumed dirty flag; none where the tick made no dirty report (R305, R302, R326). -/
  redraw : Option Bool
  /-- `sound_active` (R321); none where the tick ended before that line of R300. -/
  soundActive : Option Bool
  /-- `fault`: the diagnostic, with the faulting tick only (R306). -/
  fault : Option Diag
  deriving DecidableEq, Repr

/-- Why an image does not load: ImageLoadFailure, code 1 of R303; no run starts (70_reset R342). -/
inductive LoadFailure where
  /-- The image cannot be read. -/
  | unreadable
  /-- The image is longer than 3584 bytes. -/
  | tooLong
  deriving DecidableEq, Repr

/-- The reasons a step stops outside the spec's own state machine: none. Every fatal condition of this core is a state
the spec describes, `run = Faulted(diag)` (10_state R35, 60_exceptions R305), and is reached as a next state, so
nothing raises a `Fault` (log entry 1, safe). -/
inductive Fault where
  deriving DecidableEq, Repr

/-- The reasons an instruction has no meaning. -/
inductive Refusal where
  /-- Raised only by an arm of Dispatch.lean that has no meaning yet; every arm has one, so nothing raises it. Safe:
  the run stops. -/
  | notModelled (mnemonic : String)
  deriving DecidableEq, Repr

/-- The state of the core: the tuple of 10_state, then the named arguments, then the model's own port fields. -/
structure State where
  /-- V0 to VF (R20); register 15 is also the flag VF (R21, R26). -/
  v : Vector Byte 16
  /-- The program counter (R23). -/
  pc : Word
  /-- The index register I (R27). -/
  index : Word
  /-- The sixteen return-address slots (R28). -/
  stack : Vector Word 16
  /-- The stack pointer, the number of occupied slots, 0 to 16 (R28, R29). -/
  sp : Fin 17
  /-- The delay timer DT (R30). -/
  dt : Byte
  /-- The sound timer ST (R31). -/
  st : Byte
  /-- The end of the last timer period counted, in time units (R32; log entry 5). -/
  last : Nat
  /-- Memory (R33). -/
  mem : Memory
  /-- The framebuffer (R34). -/
  fb : Framebuffer
  /-- The dirty flag (R36). -/
  dirty : Bool
  /-- The run state (R35). -/
  run : Run
  /-- The spec's named arguments (00_scope R8): no step writes them (log entries 5, 7, 8). -/
  params : Config.Params
  /-- The tick inputs the host has already fixed, the coming tick's first (R40; log entry 2). -/
  inputs : List Config.TickInput
  /-- The number of ticks so far, the argument of the free input draw (log entry 2). -/
  ticks : Nat
  /-- The output ports of the last tick (60_exceptions R319). -/
  out : Outputs
  deriving DecidableEq, Repr

/-- The result of an execute or of a step. -/
abbrev Result := Host.Outcome State Fault Refusal

/-- No port carries an output. -/
def Outputs.silent : Outputs := { redraw := none, soundActive := none, fault := none }

/-- The reset of 70_reset R340 without the image: every component at its value in 10_state R39, for the given named
arguments and host time T0. Memory lists nothing: it holds FONT and zeros. -/
def State.blank (p : Config.Params) (t0 : Nat) : State :=
  { v := Vector.replicate 16 0
    pc := 0x200
    index := 0
    stack := Vector.replicate 16 0
    sp := 0
    dt := 0
    st := 0
    last := t0
    mem := []
    fb := Vector.replicate 32 0
    dirty := true
    run := .running
    params := p
    inputs := []
    ticks := 0
    out := Outputs.silent }

/-- The machine right after reset (R39, R340) with the default named arguments, the empty image (R342) and T0 = 0
(DESIGN CHOICE, log entry 4). -/
def State.reset : State := State.blank defaultParams 0

end Sys2Proof.Machine
end

