-- ==== Sys2Proof/Machine/Memory.lean ====
section
/-! DEFINITION. Memory as a canonical list: what an unlisted address reads as, the byte read and write of 00_scope
R12, and the canonical form. -/

namespace Sys2Proof.Machine

/-- `MEM_SIZE` (00_scope R8). -/
def memSize : Nat := 4096

/-- `ADDR_MAX` (R8). -/
def addrMax : Nat := 0xFFF

/-- What an unlisted address reads as: the reset contents of 70_reset R341 before the image, FONT at 0x000 to 0x04F
(10_state R38: glyph d at 5 d) and 0x00 elsewhere. -/
def Memory.unlisted (font : Vector (Vector Byte 5) 16) (a : Nat) : Byte :=
  if h : a < 80 then (font[a / 5]'(by omega))[a % 5]'(Nat.mod_lt a (by decide)) else 0x00

/-- `MemRead(a, 1)` (R12): the listed byte, or what an unlisted address reads as. -/
def Memory.read (font : Vector (Vector Byte 5) 16) (m : Memory) (a : Nat) : Byte :=
  match m with
  | [] => Memory.unlisted font a
  | (k, c) :: rest => if k = a then c else Memory.read font rest a

/-- List the byte `b` at `a`, keeping addresses strictly rising. -/
def Memory.put (m : Memory) (a : Nat) (b : Byte) : Memory :=
  match m with
  | [] => [(a, b)]
  | (k, c) :: rest =>
    if a < k then (a, b) :: (k, c) :: rest
    else if a = k then (a, b) :: rest
    else (k, c) :: Memory.put rest a b

/-- Remove the entry at `a`, if there is one. -/
def Memory.drop (m : Memory) (a : Nat) : Memory :=
  match m with
  | [] => []
  | (k, c) :: rest => if k = a then rest else (k, c) :: Memory.drop rest a

/-- `MemWrite(a, 1, b)` (R12), keeping the canonical form: a byte equal to what the unlisted address reads as is
removed. It is defined for a ≤ 0xFFF only (R12): above, where no rule writes, memory is left as it is (log entry
11). -/
def Memory.write (font : Vector (Vector Byte 5) 16) (m : Memory) (a : Nat) (b : Byte) : Memory :=
  if a ≤ addrMax then
    if b = Memory.unlisted font a then Memory.drop m a else Memory.put m a b
  else m

/-- The entries are canonical from address `lo` on: addresses at least `lo`, strictly rising and below 4096, and no
entry equal to what its address reads as unlisted. -/
def Memory.wfFrom (font : Vector (Vector Byte 5) 16) (lo : Nat) (m : Memory) : Bool :=
  match m with
  | [] => true
  | (k, c) :: rest =>
    decide (lo ≤ k) && decide (k ≤ addrMax) && decide (c ≠ Memory.unlisted font k) && Memory.wfFrom font (k + 1) rest

/-- The canonical form of memory. -/
def Memory.wf (font : Vector (Vector Byte 5) 16) (m : Memory) : Bool := Memory.wfFrom font 0 m

end Sys2Proof.Machine
end

