-- ==== Sys2Proof/Machine/Ops.lean ====
section
/-! DEFINITION. The named operations over the state: registers, pc, the tick's inputs, memory, the range checks, the
call stack, the skip primitive, and taking a fault. -/

namespace Sys2Proof.Machine

open Sys2Proof

/-- `V[x]` (00_scope R11). -/
def State.reg (s : State) (x : RegIdx) : Byte := s.v[x.toNat]'x.isLt

/-- `V[x] <- b` (R11). No register is hard-wired (10_state R20). -/
def State.setReg (s : State) (x : RegIdx) (b : Byte) : State := { s with v := s.v.set x.toNat b x.isLt }

/-- The index of VF (10_state R21). -/
def vf : RegIdx := 0xF

/-- `pc <- t` (R11). -/
def State.setPc (s : State) (t : Word) : State := { s with pc := t }

/-- `pc <- pc + 2`: the end of an instruction that does not branch or skip (10_state R23). -/
def State.advance (s : State) : State := { s with pc := s.pc + 2 }

/-- `I <- a` (R11); never checked when written (10_state R27). -/
def State.setIndex (s : State) (a : Word) : State := { s with index := a }

/-- `DT <- b` (10_state R30). -/
def State.setDt (s : State) (b : Byte) : State := { s with dt := b }

/-- `ST <- b` (10_state R31). -/
def State.setSt (s : State) (b : Byte) : State := { s with st := b }

/-- `run <- r` (10_state R35). -/
def State.setRun (s : State) (r : Run) : State := { s with run := r }

/-- The framebuffer after a draw or a clear. -/
def State.setFb (s : State) (f : Framebuffer) : State := { s with fb := f }

/-- `dirty <- b` (10_state R36). -/
def State.setDirty (s : State) (b : Bool) : State := { s with dirty := b }

/-- The inputs of the coming tick (10_state R40): the first the state lists, or the free draw of that tick where it
lists none (log entry 2). -/
def State.input (s : State) : Config.TickInput :=
  match s.inputs with
  | i :: _ => i
  | [] => Config.tickInput s.ticks

/-- `MemRead(a, 1)` (R12). -/
def State.readByte (s : State) (a : Nat) : Byte := Memory.read s.params.font s.mem a

/-- `MemWrite(a, 1, b)` (R12). -/
def State.writeByte (s : State) (a : Nat) (b : Byte) : State :=
  { s with mem := Memory.write s.params.font s.mem a b }

/-- The bytes at a, a + 1, ..., a + len - 1, read in ascending order (20_memory R60). -/
def State.readBytes (s : State) (a len : Nat) : List Byte := (List.range len).map (fun k => s.readByte (a + k))

/-- Store the bytes at a, a + 1, ..., in ascending order (20_memory R60). -/
def State.writeBytes (s : State) (a : Nat) (bs : List Byte) : State :=
  match bs with
  | [] => s
  | b :: rest => State.writeBytes (s.writeByte a b) (a + 1) rest

/-- `CheckRange(a, len)` passes (20_memory R55), for len at least 1. -/
def checkRange (a len : Nat) : Bool := decide (a + len - 1 ≤ addrMax)

/-- `CheckFetch(pc)` passes (20_memory R53). -/
def checkFetch (pc : Word) : Bool := decide (pc.toNat + 1 ≤ addrMax)

/-- The two bytes at pc as a big-endian word (20_memory R52). -/
def State.fetchWord (s : State) : Word := wordOfBytes (s.readByte s.pc.toNat) (s.readByte (s.pc.toNat + 1))

/-- The kind of a fault, by its reason (60_exceptions R303). -/
def Diag.kind (d : Diag) : FaultKind :=
  match d.reason with
  | .decodeFailure => .decodeFailure
  | _ => .preconditionViolation

/-- The code of a fault, by its reason (R303). -/
def Diag.code (d : Diag) : FaultCode :=
  match d.reason with
  | .decodeFailure => ⟨2, 0⟩
  | .stackOverflow => ⟨3, 1⟩
  | .stackUnderflow => ⟨3, 2⟩
  | .memoryOutOfRange => ⟨3, 3⟩
  | .fetchOutOfRange => ⟨3, 4⟩
  | .jumpOutOfRange => ⟨3, 5⟩
  | .indexOverflow => ⟨3, 6⟩

/-- The kind of a load failure (R303). -/
def LoadFailure.kind (_ : LoadFailure) : FaultKind := .imageLoadFailure

/-- The code of a load failure (R303). -/
def LoadFailure.code (_ : LoadFailure) : FaultCode := ⟨1, 0⟩

/-- Taking a fault (60_exceptions R305, 00_scope R13): the run moves to `Faulted(diag)` and every other component keeps
its value. There is no handler, saved pc or return (R310, R311). -/
def raise (d : Diag) (s : State) : Result := .next (s.setRun (.faulted d))

/-- The diagnostic of an instruction's own fault (R303, R306): addr = pc, word = the instruction's word. -/
def diagOf (i : Instr) (r : FaultReason) (s : State) : Diag := { reason := r, addr := s.pc, word := some (encode i) }

/-- `raise Fault(PreconditionViolation, r)` by the executing instruction (R13). -/
def raiseBy (i : Instr) (r : FaultReason) (s : State) : Result := raise (diagOf i r s) s

/-- `SkipIf(c)` (40_control_flow R110). -/
def skipIf (c : Bool) (s : State) : Result := .next (s.setPc (if c then s.pc + 4 else s.pc + 2))

/-- `Push(a)` (10_state R29): store at the current pointer, then increment; none when SP = 16. -/
def State.push (s : State) (a : Word) : Option State :=
  if h : s.sp.val < 16 then
    some { s with stack := s.stack.set s.sp.val a h, sp := ⟨s.sp.val + 1, by omega⟩ }
  else none

/-- `Pop()` (10_state R29): decrement the pointer, then load; none when SP = 0. The slot keeps its value (R117). -/
def State.pop (s : State) : Option (Word × State) :=
  if h : 0 < s.sp.val then
    some (s.stack[s.sp.val - 1]'(by have := s.sp.isLt; omega),
      { s with sp := ⟨s.sp.val - 1, by have := s.sp.isLt; omega⟩ })
  else none

end Sys2Proof.Machine
end

