-- ==== Sys2Proof/Machine/Flags.lean ====
section
/-! DEFINITION. The flag computations (10_state R26) and the result-and-flag write (41_alu R140). -/

namespace Sys2Proof.Machine

open Sys2Proof

/-- `bit(b)` as the byte a flag write stores (00_scope R10, 10_state R26). -/
def flagByte (b : Bool) : Byte := if b then 1 else 0

/-- ADD: 1 if the exact sum exceeds 255 (41_alu R147). -/
def carryFlag (a b : Byte) : Byte := flagByte (decide (a.toNat + b.toNat > 255))

/-- SUB and SUBN: 1 if minuend ≥ subtrahend, no borrow (R148, R150). -/
def noBorrowFlag (a b : Byte) : Byte := flagByte (decide (a.toNat ≥ b.toNat))

/-- SHR: bit 0 before the shift (R149). -/
def shrFlag (a : Byte) : Byte := a &&& 1

/-- SHL: bit 7 before the shift, as 0 or 1 (R151). -/
def shlFlag (a : Byte) : Byte := (a >>> 7) &&& 1

/-- `(a + 256 - b) mod 256` (R148). -/
def subMod (a b : Byte) : Byte := BitVec.ofNat 8 ((a.toNat + 256 - b.toNat) % 256)

/-- `trunc8(a + b)` (R142, R147). -/
def addMod (a b : Byte) : Byte := BitVec.ofNat 8 ((a.toNat + b.toNat) % 256)

/-- `WriteRF(x, r, f)` (R140): the two orders differ only when x is VF. -/
def State.writeRF (s : State) (x : RegIdx) (r f : Byte) : State :=
  match s.params.vfDest with
  | .flagWins => (s.setReg x r).setReg vf f
  | .resultWins => (s.setReg vf f).setReg x r

end Sys2Proof.Machine
end

