-- ==== Sys2Proof/Machine/Operands.lean ====
section
/-! DEFINITION. The operand forms: how a field or a register's value becomes the operand a rule uses (30_encoding R83,
R84; 42_index_memory R176). -/

namespace Sys2Proof.Machine

open Sys2Proof

/-- `zext_16(nnn)` (30_encoding R83). -/
def addrOperand (nnn : Addr) : Word := nnn.setWidth 16

/-- `V[x] & 0xF` (R84): the button or digit a register names. -/
def lowNibble (b : Byte) : RegIdx := b.extractLsb' 0 4

/-- `Keys[k] = 1` in this tick's snapshot (44_input_timer_random R210). -/
def State.keyPressed (s : State) (k : RegIdx) : Bool := s.input.keys.getLsbD k.toNat

/-- A button id as the byte an Fx0A wait loads (R214). -/
def keyByte (k : RegIdx) : Byte := k.setWidth 8

/-- The target of Bnnn, exact (40_control_flow R118). -/
def jumpV0Target (nnn : Addr) (s : State) : Nat := nnn.toNat + (s.reg 0).toNat

/-- `I + V[x]`, exact (42_index_memory R171). -/
def indexSum (x : RegIdx) (s : State) : Nat := s.index.toNat + (s.reg x).toNat

/-- `FONT_BASE + digit * FONT_GLYPH_BYTES` with base 0 and 5 bytes a glyph (R172). -/
def glyphAddress (digit : RegIdx) : Word := BitVec.ofNat 16 (0 + digit.toNat * 5)

/-- The hundreds, tens and units digits of a byte (R173). -/
def bcdDigits (b : Byte) : List Byte :=
  [BitVec.ofNat 8 (b.toNat / 100), BitVec.ofNat 8 (b.toNat / 10 % 10), BitVec.ofNat 8 (b.toNat % 10)]

/-- The number of registers V[0] to V[x] (R174, R175). -/
def blockLength (x : RegIdx) : Nat := x.toNat + 1

/-- V[0], ..., V[x] in ascending order (R174). -/
def State.lowRegs (s : State) (x : RegIdx) : List Byte := s.v.toList.take (blockLength x)

/-- `V[i] <- MemRead(I + i, 1)` for i in 0..x; registers above x keep their value (R175). -/
def State.loadRegs (s : State) (x : RegIdx) : State :=
  { s with v := Vector.ofFn fun r => if r.val ≤ x.toNat then s.readByte (s.index.toNat + r.val) else s.v[r.val] }

/-- The origin column of a draw, V[x] mod 64 (43_blitter R191, R193). -/
def originX (x : RegIdx) (s : State) : Nat := (s.reg x).toNat % 64

/-- The origin row of a draw, V[y] mod 32 (R191, R193). -/
def originY (y : RegIdx) (s : State) : Nat := (s.reg y).toNat % 32

end Sys2Proof.Machine
end

