-- ==== Sys2Proof/Machine/Alu.lean ====
section
/-! DEFINITION. The ALU instructions: 41_alu R140 to R151. None raises an exception; each ends with pc + 2; operands
are read before any write (00_scope R15). -/

namespace Sys2Proof.Machine

open Sys2Proof

/-- `LD Vx, kk` (R141). -/
def execLdImm (x : RegIdx) (kk : Byte) (s : State) : Result := .next (s.setReg x kk).advance

/-- `ADD Vx, kk` (R142): no flag is written. -/
def execAddImm (x : RegIdx) (kk : Byte) (s : State) : Result := .next (s.setReg x (addMod (s.reg x) kk)).advance

/-- `LD Vx, Vy` (R143). -/
def execLdReg (x y : RegIdx) (s : State) : Result := .next (s.setReg x (s.reg y)).advance

/-- `OR Vx, Vy` (R144): VF is not reset. -/
def execOrReg (x y : RegIdx) (s : State) : Result := .next (s.setReg x (s.reg x ||| s.reg y)).advance

/-- `AND Vx, Vy` (R145). -/
def execAndReg (x y : RegIdx) (s : State) : Result := .next (s.setReg x (s.reg x &&& s.reg y)).advance

/-- `XOR Vx, Vy` (R146). -/
def execXorReg (x y : RegIdx) (s : State) : Result := .next (s.setReg x (s.reg x ^^^ s.reg y)).advance

/-- `ADD Vx, Vy` (R147). -/
def execAddReg (x y : RegIdx) (s : State) : Result :=
  .next (s.writeRF x (addMod (s.reg x) (s.reg y)) (carryFlag (s.reg x) (s.reg y))).advance

/-- `SUB Vx, Vy` (R148). -/
def execSubReg (x y : RegIdx) (s : State) : Result :=
  .next (s.writeRF x (subMod (s.reg x) (s.reg y)) (noBorrowFlag (s.reg x) (s.reg y))).advance

/-- `SHR Vx` (R149): V[y] is neither read nor written (30_encoding R89). -/
def execShr (x _y : RegIdx) (s : State) : Result :=
  .next (s.writeRF x (s.reg x >>> 1) (shrFlag (s.reg x))).advance

/-- `SUBN Vx, Vy` (R150): V[y] - V[x]. -/
def execSubnReg (x y : RegIdx) (s : State) : Result :=
  .next (s.writeRF x (subMod (s.reg y) (s.reg x)) (noBorrowFlag (s.reg y) (s.reg x))).advance

/-- `SHL Vx` (R151): V[y] is neither read nor written (30_encoding R89). -/
def execShl (x _y : RegIdx) (s : State) : Result :=
  .next (s.writeRF x (s.reg x <<< 1) (shlFlag (s.reg x))).advance

end Sys2Proof.Machine
end

