-- ==== Sys2Proof/Machine/Blitter.lean ====
section
/-! DEFINITION. The blitter: 43_blitter R190 to R196. The draw is the pixel loop of R191, row by row from the top and
column by column from the left. -/

namespace Sys2Proof.Machine

open Sys2Proof

/-- Every cell clear. -/
def Framebuffer.clear : Framebuffer := Vector.replicate 32 0

/-- `FB[px][py]` (00_scope R11), false outside the grid, where no rule indexes it (10_state R34). -/
def Framebuffer.cell (f : Framebuffer) (px py : Nat) : Bool := if h : py < 32 then f[py].getLsbD px else false

/-- `FB[px][py] <- FB[px][py] ^ 1` for a cell of the grid. -/
def Framebuffer.flip (f : Framebuffer) (px py : Nat) : Framebuffer :=
  if h : py < 32 then f.set py (f[py] ^^^ BitVec.twoPow 64 px) else f

/-- The locals of the draw loop (R191): the framebuffer so far, `collision` and `changed`. -/
structure Blit where
  fb : Framebuffer
  collision : Bool
  changed : Bool
  deriving DecidableEq, Repr

/-- Bit c of a sprite byte counted from the left: bit 7 is the leftmost pixel (R192). -/
def spriteBit (b : Byte) (c : Nat) : Bool := b.getLsbD (7 - c)

/-- One pixel of the loop (R191): a pixel right of the grid is dropped, a 0 bit leaves the cell, a 1 bit inverts it and
collides with a set cell. -/
def blitPixel (px py : Nat) (bit : Bool) (d : Blit) : Blit :=
  if px ≥ 64 then d
  else if bit then
    { fb := Framebuffer.flip d.fb px py, collision := d.collision || Framebuffer.cell d.fb px py, changed := true }
  else d

/-- One row of the loop (R191): a row below the grid is dropped. -/
def blitRow (b : Byte) (x0 py : Nat) (d : Blit) : Blit :=
  if py ≥ 32 then d
  else (List.range 8).foldl (fun e c => blitPixel (x0 + c) py (spriteBit b c) e) d

/-- The rows of the loop, from row `py` down (R191). -/
def blitRows (x0 py : Nat) (rows : List Byte) (d : Blit) : Blit :=
  match rows with
  | [] => d
  | b :: rest => blitRows x0 (py + 1) rest (blitRow b x0 py d)

/-- The whole draw of R191 on a state whose sprite is in range: origin from V[x] and V[y] as they stand before VF is
written (R194), n sprite bytes from I. -/
def drawSprite (x y : RegIdx) (n : BitVec 4) (s : State) : Blit :=
  blitRows (originX x s) (originY y s) (s.readBytes s.index.toNat n.toNat)
    { fb := s.fb, collision := false, changed := false }

/-- The range check of a draw: none for n = 0, else the whole sprite, clipped rows included (R191, R195). -/
def spriteInRange (n : BitVec 4) (s : State) : Bool := n == 0 || checkRange s.index.toNat n.toNat

/-- `CLS` (R190): every cell clear, dirty set in every case. -/
def execCls (s : State) : Result := .next ((s.setFb Framebuffer.clear).setDirty true).advance

/-- `DRW Vx, Vy, n` (R191). -/
def execDrw (x y : RegIdx) (n : BitVec 4) (s : State) : Result :=
  if spriteInRange n s then
    .next ((((s.setFb (drawSprite x y n s).fb).setReg vf (flagByte (drawSprite x y n s).collision)).setDirty
      (s.dirty || (drawSprite x y n s).changed)).advance)
  else raiseBy (.drw x y n) .memoryOutOfRange s

end Sys2Proof.Machine
end

