-- ==== Sys2Proof/Machine/Control.lean ====
section
/-! DEFINITION. Skips, jumps, calls and returns: 40_control_flow R110 to R118. -/

namespace Sys2Proof.Machine

open Sys2Proof

/-- `SE Vx, kk` (R111). -/
def execSeImm (x : RegIdx) (kk : Byte) (s : State) : Result := skipIf (s.reg x == kk) s

/-- `SNE Vx, kk` (R112). -/
def execSneImm (x : RegIdx) (kk : Byte) (s : State) : Result := skipIf (s.reg x != kk) s

/-- `SE Vx, Vy` (R113). -/
def execSeReg (x y : RegIdx) (s : State) : Result := skipIf (s.reg x == s.reg y) s

/-- `SNE Vx, Vy` (R114). -/
def execSneReg (x y : RegIdx) (s : State) : Result := skipIf (s.reg x != s.reg y) s

/-- `JP nnn` (R115). -/
def execJp (nnn : Addr) (s : State) : Result := .next (s.setPc (addrOperand nnn))

/-- `CALL nnn` (R116): push pc + 2, then jump; StackOverflow before any write when SP = 16. -/
def execCall (nnn : Addr) (s : State) : Result :=
  match s.push (s.pc + 2) with
  | some t => .next (t.setPc (addrOperand nnn))
  | none => raiseBy (.call nnn) .stackOverflow s

/-- `RET` (R117): `pc <- Pop()`; StackUnderflow before any write when SP = 0. -/
def execRet (s : State) : Result :=
  match s.pop with
  | some (a, t) => .next (t.setPc a)
  | none => raiseBy .ret .stackUnderflow s

/-- `JP V0, nnn` (R118): JumpOutOfRange when the exact target passes 0xFFF. -/
def execJpV0 (nnn : Addr) (s : State) : Result :=
  if jumpV0Target nnn s > addrMax then raiseBy (.jpV0 nnn) .jumpOutOfRange s
  else .next (s.setPc (BitVec.ofNat 16 (jumpV0Target nnn s)))

end Sys2Proof.Machine
end

