-- ==== Sys2Proof/Machine/IndexMemory.lean ====
section
/-! DEFINITION. The index register and memory instructions: 42_index_memory R170 to R176. None writes VF as a flag. -/

namespace Sys2Proof.Machine

open Sys2Proof

/-- `LD I, nnn` (R170). -/
def execLdI (nnn : Addr) (s : State) : Result := .next (s.setIndex (addrOperand nnn)).advance

/-- `ADD I, Vx` (R171): IndexOverflow when the exact sum passes 0xFFFF. -/
def execAddIVx (x : RegIdx) (s : State) : Result :=
  if indexSum x s > 0xFFFF then raiseBy (.addIVx x) .indexOverflow s
  else .next (s.setIndex (BitVec.ofNat 16 (indexSum x s))).advance

/-- `LD F, Vx` (R172). -/
def execLdFVx (x : RegIdx) (s : State) : Result := .next (s.setIndex (glyphAddress (lowNibble (s.reg x)))).advance

/-- `LD B, Vx` (R173): three digits at I, I + 1, I + 2; I unchanged. -/
def execLdBVx (x : RegIdx) (s : State) : Result :=
  if checkRange s.index.toNat 3 then .next (s.writeBytes s.index.toNat (bcdDigits (s.reg x))).advance
  else raiseBy (.ldBVx x) .memoryOutOfRange s

/-- `LD [I], Vx` (R174): V[0]..V[x] at I..I + x; I unchanged. -/
def execLdMemVx (x : RegIdx) (s : State) : Result :=
  if checkRange s.index.toNat (blockLength x) then .next (s.writeBytes s.index.toNat (s.lowRegs x)).advance
  else raiseBy (.ldMemVx x) .memoryOutOfRange s

/-- `LD Vx, [I]` (R175): V[0]..V[x] from I..I + x; I unchanged. -/
def execLdVxMem (x : RegIdx) (s : State) : Result :=
  if checkRange s.index.toNat (blockLength x) then .next (s.loadRegs x).advance
  else raiseBy (.ldVxMem x) .memoryOutOfRange s

end Sys2Proof.Machine
end

