-- ==== Sys2Proof/Machine/InputTimer.lean ====
section
/-! DEFINITION. Input, timer and random instructions: 44_input_timer_random R210 to R225. None writes VF as a flag or
raises an exception. -/

namespace Sys2Proof.Machine

open Sys2Proof

/-- `SKP Vx` (R211). -/
def execSkp (x : RegIdx) (s : State) : Result := skipIf (s.keyPressed (lowNibble (s.reg x))) s

/-- `SKNP Vx` (R212). -/
def execSknp (x : RegIdx) (s : State) : Result := skipIf (!s.keyPressed (lowNibble (s.reg x))) s

/-- `LD Vx, DT` (R220). -/
def execLdVxDt (x : RegIdx) (s : State) : Result := .next (s.setReg x s.dt).advance

/-- `LD Vx, K` (R213): the run waits; pc is held and no register is written. -/
def execLdVxK (x : RegIdx) (s : State) : Result := .next (s.setRun (.awaitingKey x))

/-- `LD DT, Vx` (R221). -/
def execLdDtVx (x : RegIdx) (s : State) : Result := .next (s.setDt (s.reg x)).advance

/-- `LD ST, Vx` (R222). -/
def execLdStVx (x : RegIdx) (s : State) : Result := .next (s.setSt (s.reg x)).advance

/-- `RND Vx, kk` (R224): this tick's random byte, masked. -/
def execRnd (x : RegIdx) (kk : Byte) (s : State) : Result := .next (s.setReg x (s.input.randByte &&& kk)).advance

end Sys2Proof.Machine
end

