-- ==== Sys2Proof/Machine/Tick.lean ====
section
/-! DEFINITION. The tick: 60_exceptions R300 to R302, the fetch, the key wait (44_input_timer_random R214), the timer
engine (R315) and the output ports (R319 to R321). -/

namespace Sys2Proof.Machine

open Sys2Proof

/-- `floor((now - last) / TIMER_PERIOD)` (R315): the complete periods elapsed. Zero where `now` is before `last`, which
a host that keeps its duty (R322) never reports (log entry 6). -/
def elapsedPeriods (p : Config.Params) (last now : Nat) : Nat := (now - last) / periodUnits p

/-- `T - min(T, k)` (R315): a timer never goes below 0. -/
def countDown (t : Byte) (k : Nat) : Byte := BitVec.ofNat 8 (t.toNat - min t.toNat k)

/-- `TimerUpdate(now)` (R315). -/
def timerUpdate (now : Nat) (s : State) : State :=
  { s with
    dt := countDown s.dt (elapsedPeriods s.params s.last now)
    st := countDown s.st (elapsedPeriods s.params s.last now)
    last := s.last + elapsedPeriods s.params s.last now * periodUnits s.params }

/-- The last two lines of the tick (R300): the dirty report (R320) and the sound output (R321). -/
def report (s : State) : State :=
  { s with
    dirty := false
    out := { redraw := some s.dirty, soundActive := some (s.st != 0), fault := none } }

/-- The tick is over: its inputs are used up (10_state R40: the core stores none of them). -/
def nextInputs (s : State) : State := { s with inputs := s.inputs.tail, ticks := s.ticks + 1 }

/-- The end of a tick that reached its execute or its wait poll: a fault ends it at once, with the diagnostic as its
only output and no timer update (R305, R306); else the timer update and the reports follow (R300). -/
def endTick (s : State) : State :=
  match s.run with
  | .faulted d => nextInputs { s with out := { redraw := none, soundActive := none, fault := some d } }
  | _ => nextInputs (report (timerUpdate s.input.now s))

/-- `endTick` on the result of an execute. -/
def finishTick (r : Result) : Result :=
  match r with
  | .next s => .next (endTick s)
  | .fault f => .fault f
  | .refused q => .refused q

/-- `Fetch(pc)` then `Decode(w)` (R300): the instruction, or the diagnostic of FetchOutOfRange (20_memory R53) or
DecodeFailure (30_encoding R87), in that precedence (R309). -/
def fetchDecode (s : State) : Except Diag Instr :=
  if checkFetch s.pc then
    match decodeWord s.fetchWord with
    | .ok i => .ok i
    | .error _ => .error { reason := .decodeFailure, addr := s.pc, word := some s.fetchWord }
  else .error { reason := .fetchOutOfRange, addr := s.pc, word := none }

/-- The `Running` branch of the tick (R300). -/
def runningTick (s : State) : Result :=
  match fetchDecode s with
  | .ok i => finishTick (exec i s)
  | .error d => finishTick (raise d s)

/-- `WaitTick(x)` (44_input_timer_random R214): a press loads its button id and ends the wait. -/
def waitTick (x : RegIdx) (s : State) : State :=
  match s.input.press with
  | some k => ((s.setReg x (keyByte k)).advance).setRun .running
  | none => s

/-- The tick that finds `terminate` set (R302): nothing but the run state changes, and no port carries an output. -/
def terminateTick (s : State) : State := nextInputs { s with run := .terminated, out := Outputs.silent }

/-- A tick of an ended run (R300, R326): a no-op; only the model's port fields move. -/
def idleTick (s : State) : State := nextInputs { s with out := Outputs.silent }

/-- `Tick` (R300): the final states, then termination, then one instruction or one poll (R309). -/
def tick (s : State) : Result :=
  match s.run with
  | .faulted _ => .next (idleTick s)
  | .terminated => .next (idleTick s)
  | .running => if s.input.terminate then .next (terminateTick s) else runningTick s
  | .awaitingKey x => if s.input.terminate then .next (terminateTick s) else .next (endTick (waitTick x s))

/-- The inputs of a tick in which nothing happens outside: no button, no press, a zero random byte, no termination,
at host time `now` (the convention of 95_test_vectors). -/
def quietInput (now : Nat) : Config.TickInput :=
  { now := now, keys := 0, press := none, randByte := 0, terminate := false }

/-- The inputs with which the coming tick is not terminated: the first the state lists with `terminate` cleared, or,
where it lists none, a quiet tick at the time of `last` (log entry 12). -/
def liveInputs (s : State) : List Config.TickInput :=
  match s.inputs with
  | i :: rest => { i with terminate := false } :: rest
  | [] => [quietInput s.last]

/-- The word's two bytes stored at pc, big-endian (20_memory R51), the run running and the coming tick not
terminated. -/
def placeWord (w : Word) (s : State) : State :=
  { s.writeBytes s.pc.toNat [byteHi w, byteLo w] with run := .running, inputs := liveInputs s }

end Sys2Proof.Machine
end

