-- ==== Sys2Proof/Machine/Step.lean ====
section
/-! DEFINITION. The step of the machine, one tick (60_exceptions R300, R301), and the placing of a word where it
fetches. -/

namespace Sys2Proof.Machine

open Sys2Proof

/-- One step is one tick (R300). -/
def step (s : State) : Host.Outcome State Fault Refusal := Sys2Proof.Machine.tick s

/-- The state with the word of a table row, numbered as spec/opcode_table.json numbers it, stored where the next step
fetches, the run running and that tick not terminated (log entry 12). -/
def State.withFetchWord (s : State) (nbits w : Nat) : State :=
  Sys2Proof.Machine.placeWord (BitVec.ofNat 16 (w % 2 ^ nbits)) s

end Sys2Proof.Machine
end

