-- ==== Sys2Proof/Machine/Reset.lean ====
section
/-! DEFINITION. Reset with a program image (70_reset R340 to R342), which is also the host's restart (R349). -/

namespace Sys2Proof.Machine

open Sys2Proof

/-- `PROGRAM_BASE` (00_scope R8). -/
def programBase : Nat := 0x200

/-- `LoadImage(image)` (R342): `none` is an image that cannot be read. -/
def loadImage (image : Option (List Byte)) (s : State) : Except LoadFailure State :=
  match image with
  | none => .error .unreadable
  | some bytes => if imageFits bytes then .ok (s.writeBytes programBase bytes) else .error .tooLong

/-- `Reset(image, T0)` (R340) for the given named arguments: the reset state with the image in memory, or
ImageLoadFailure, after which no run starts (60_exceptions R307). Nothing of an earlier run is an argument: a restart
is a full reset (R349). -/
def resetWith (p : Config.Params) (image : Option (List Byte)) (t0 : Nat) : Except LoadFailure State :=
  loadImage image (State.blank p t0)

end Sys2Proof.Machine
end

