-- ==== Sys2Proof/Safety.lean ====
section
/-! DEFINITION. What counts as a safe run, in the terms claims use: the invariant of the machine, the end of a run, and
for each instruction which state it may write (10_state R22, R26, R27, R34, R37; 60_exceptions R304). -/

namespace Sys2Proof.Machine

open Sys2Proof

/-- The run has ended (60_exceptions R326). -/
def Run.ended (r : Run) : Bool :=
  match r with
  | .faulted _ | .terminated => true
  | _ => false

/-- The run is faulted. -/
def Run.isFaulted (r : Run) : Bool :=
  match r with
  | .faulted _ => true
  | _ => false

/-- What the run state says about pc: a waiting core holds the address of its Fx0A, which was fetched (10_state R25);
a diagnostic records the pc of the faulting tick, which the fault left in place (60_exceptions R305, R306), and has no
word exactly for FetchOutOfRange (R303). -/
def runConsistent (r : Run) (pc : Word) : Bool :=
  match r with
  | .awaitingKey _ => checkFetch pc
  | .faulted d => decide (d.addr = pc) && (d.word.isNone == decide (d.reason = .fetchOutOfRange))
  | _ => true

/-- The invariant of the machine: memory is canonical, pc never passes 0x1002 (10_state R24), every return address is
at most 0x1000 (40_control_flow R116: the pushed value follows an instruction that was fetched), and the run state
agrees with pc. -/
abbrev State.Inv (s : State) : Prop :=
  Memory.wf s.params.font s.mem = true ∧ s.pc.toNat ≤ 0x1002 ∧ (∀ j : Fin 16, s.stack[j].toNat ≤ 0x1000)
    ∧ runConsistent s.run s.pc = true

/-- The general registers the execute of an instruction may write: the table of 10_state R22, with VF for the flag
writers of R26. Fx0A writes its register in a later tick (44_input_timer_random R214), so none here. -/
def writesReg (i : Instr) (r : RegIdx) : Bool :=
  match i with
  | .ldImm x _ | .addImm x _ | .ldReg x _ | .orReg x _ | .andReg x _ | .xorReg x _ | .rnd x _ | .ldVxDt x => r == x
  | .addReg x _ | .subReg x _ | .shr x _ | .subnReg x _ | .shl x _ => r == x || r == vf
  | .drw _ _ _ => r == vf
  | .ldVxMem x => decide (r.toNat ≤ x.toNat)
  | .cls | .ret | .jp _ | .call _ | .seImm _ _ | .sneImm _ _ | .seReg _ _ | .sneReg _ _ | .ldI _ | .jpV0 _ | .skp _
  | .sknp _ | .ldVxK _ | .ldDtVx _ | .ldStVx _ | .addIVx _ | .ldFVx _ | .ldBVx _ | .ldMemVx _ => false

/-- The address and the number of the bytes an instruction stores: I and 3 for Fx33, I and x + 1 for Fx55 (20_memory
R56); none for every other instruction. The address and lengths are those the meanings use. -/
def storesTo (i : Instr) (s : State) : Option (Nat × Nat) :=
  match i with
  | .ldBVx _ => some (s.index.toNat, 3)
  | .ldMemVx x => some (s.index.toNat, blockLength x)
  | .cls | .ret | .jp _ | .call _ | .seImm _ _ | .sneImm _ _ | .seReg _ _ | .ldImm _ _ | .addImm _ _ | .ldReg _ _
  | .orReg _ _ | .andReg _ _ | .xorReg _ _ | .addReg _ _ | .subReg _ _ | .shr _ _ | .subnReg _ _ | .shl _ _
  | .sneReg _ _ | .ldI _ | .jpV0 _ | .rnd _ _ | .drw _ _ _ | .skp _ | .sknp _ | .ldVxDt _ | .ldVxK _ | .ldDtVx _
  | .ldStVx _ | .addIVx _ | .ldFVx _ | .ldVxMem _ => none

/-- The instructions that write I: Annn, Fx1E, Fx29 (10_state R27). -/
def writesIndex (i : Instr) : Bool :=
  match i with
  | .ldI _ | .addIVx _ | .ldFVx _ => true
  | _ => false

/-- The instructions that write the call stack or SP: 2nnn and 00EE (10_state R37, 40_control_flow R119). -/
def writesStack (i : Instr) : Bool :=
  match i with
  | .call _ | .ret => true
  | _ => false

/-- The instructions that write the framebuffer or the dirty flag: 00E0 and Dxyn (10_state R34, R37). -/
def writesScreen (i : Instr) : Bool :=
  match i with
  | .cls | .drw _ _ _ => true
  | _ => false

/-- The one fault reason of each instruction that can fault after decoding (60_exceptions R304); none for the
others. -/
def faultOf (i : Instr) : Option FaultReason :=
  match i with
  | .call _ => some .stackOverflow
  | .ret => some .stackUnderflow
  | .jpV0 _ => some .jumpOutOfRange
  | .addIVx _ => some .indexOverflow
  | .ldBVx _ | .ldMemVx _ | .ldVxMem _ => some .memoryOutOfRange
  | .drw _ _ n => if n = 0 then none else some .memoryOutOfRange
  | _ => none

/-- When the execute of an instruction faults: the exception lines of the instruction rules, in numbers (R303). -/
def faultsWhen (i : Instr) (s : State) : Prop :=
  match i with
  | .call _ => s.sp.val = 16
  | .ret => s.sp.val = 0
  | .jpV0 nnn => nnn.toNat + (s.reg 0).toNat > 0xFFF
  | .addIVx x => s.index.toNat + (s.reg x).toNat > 0xFFFF
  | .ldBVx _ => s.index.toNat + 2 > 0xFFF
  | .ldMemVx x | .ldVxMem x => s.index.toNat + x.toNat > 0xFFF
  | .drw _ _ n => n ≠ 0 ∧ s.index.toNat + n.toNat - 1 > 0xFFF
  | _ => False

/-- `s` after a fault of `i` for the reason `r`: the run is faulted with the diagnostic of R306, nothing else changes
(60_exceptions R305). -/
def faultState (i : Instr) (r : FaultReason) (s : State) : State :=
  { s with run := .faulted { reason := r, addr := s.pc, word := some (encode i) } }

/-- `t` is `s` with `b` written to V[x] and pc advanced by 2, and nothing else changed. -/
def WritesOneReg (s t : State) (x : RegIdx) (b : Byte) : Prop :=
  t.reg x = b ∧ (∀ r, r ≠ x → t.reg r = s.reg r) ∧ { t with v := s.v } = { s with pc := s.pc + 2 }

/-- `t` is `s` with the result `r` written to V[x] and the flag `f` to VF, in the order P_VF_DEST gives when x is VF
(41_alu R140), pc advanced by 2, and nothing else changed. Result and flag are numbers. -/
def WritesResultAndFlag (s t : State) (x : RegIdx) (r f : Nat) : Prop :=
  (x ≠ vf → (t.reg x).toNat = r ∧ (t.reg vf).toNat = f)
  ∧ (x = vf → (t.reg vf).toNat = match s.params.vfDest with
      | .flagWins => f
      | .resultWins => r)
  ∧ (∀ q, q ≠ x → q ≠ vf → t.reg q = s.reg q)
  ∧ { t with v := s.v } = { s with pc := s.pc + 2 }

/-- `FB[px][py]` of a state. -/
def State.cell (s : State) (px py : Nat) : Bool := Framebuffer.cell s.fb px py

/-- The sprite of `DRW Vx, Vy, n` puts a 1 bit on the cell (px, py): row py - y0 and column px - x0 of the sprite, with
the origin (x0, y0) taken modulo 64 and 32, bit 7 leftmost (43_blitter R191 to R193). Only cells of the grid are
asked. -/
def spriteCovers (x y : RegIdx) (n : BitVec 4) (s : State) (px py : Nat) : Bool :=
  let x0 := (s.reg x).toNat % 64
  let y0 := (s.reg y).toNat % 32
  decide (x0 ≤ px ∧ px < x0 + 8 ∧ y0 ≤ py ∧ py < y0 + n.toNat)
    && (s.readByte (s.index.toNat + (py - y0))).getLsbD (7 - (px - x0))

/-- Some cell of the 64 x 32 grid has the property. -/
def SomeCell (P : Nat → Nat → Bool) : Prop := ∃ px py, px < 64 ∧ py < 32 ∧ P px py = true

/-- The executes of a list of instructions, one after the other. -/
def execAll (is : List Instr) (s : State) : Result :=
  match is with
  | [] => .next s
  | i :: rest =>
    match exec i s with
    | .next t => execAll rest t
    | .fault f => .fault f
    | .refused q => .refused q

end Sys2Proof.Machine
end

