-- ==== Sys2Proof/Certificates/Slice0/Obligations.lean ====
section
/-! DEFINITION. The statements about the core, for the provers. A clause `decodeWord (bits) = .ok i` writes out the
encoding line of the rule; the bit patterns other than 6xkk and 7xkk are the spec's own decision D1 (30_encoding R85).
Rules the spec tags with a decision D<n> are its own choices (92_eei_decisions); the docstring names them. -/

open Sys2Proof Sys2Proof.Machine

/-! ## Encoding -/

/-- Words of every family decode to the instruction the spec's decode vectors give (95_test_vectors, Decode), and the
illegal ones are rejected with the word. -/
def Obligations.SampleWordsDecode : Prop :=
  decodeWord 0x00E0 = .ok .cls ∧ decodeWord 0x00EE = .ok .ret ∧ decodeWord 0x5120 = .ok (.seReg 1 2)
  ∧ decodeWord 0x6005 = .ok (.ldImm 0 0x05) ∧ decodeWord 0x7003 = .ok (.addImm 0 0x03)
  ∧ decodeWord 0x8126 = .ok (.shr 1 2) ∧ decodeWord 0x81F6 = .ok (.shr 1 0xF) ∧ decodeWord 0x9120 = .ok (.sneReg 1 2)
  ∧ decodeWord 0xA2F0 = .ok (.ldI 0x2F0) ∧ decodeWord 0xB300 = .ok (.jpV0 0x300) ∧ decodeWord 0xC10F = .ok (.rnd 1 0x0F)
  ∧ decodeWord 0xD014 = .ok (.drw 0 1 4) ∧ decodeWord 0xE19E = .ok (.skp 1) ∧ decodeWord 0xE1A1 = .ok (.sknp 1)
  ∧ decodeWord 0xF155 = .ok (.ldMemVx 1) ∧ decodeWord 0x0123 = .error (.decodeFailure 0x0123)
  ∧ decodeWord 0x8128 = .error (.decodeFailure 0x8128) ∧ decodeWord 0xF175 = .error (.decodeFailure 0xF175)

/-- Decoding the word of a well-formed instruction gives it back, every operand at every value. -/
def Obligations.DecodeOfEncodeIsTheInstruction : Prop :=
  ∀ i : Instr, i.wf = true → decodeWord (encode i) = .ok i

/-- A word that decodes is the word of its instruction, lies in its row of the opcode table, and its instruction is
well formed: no bit of a legal word is dropped (30_encoding R86, R89). -/
def Obligations.EncodeOfDecodeIsTheWord : Prop :=
  ∀ (w : Word) (i : Instr), decodeWord w = .ok i → encode i = w ∧ i.row.matches w = true ∧ i.wf = true

/-- The decoder gives an instruction for exactly the words some row of the opcode table matches, and rejects every
other word as a decode failure carrying that word; so it rejects no word in any other way (30_encoding R86, R88;
decisions D2, D3). -/
def Obligations.DecoderRejectsExactlyTheIllegalWords : Prop :=
  ∀ w : Word, (wordLegal w = true ↔ ∃ i, decodeWord w = .ok i)
    ∧ (wordLegal w = false ↔ decodeWord w = .error (.decodeFailure w))

/-- No word matches two rows of the opcode table (30_encoding R86: exactly one arm matches each word). -/
def Obligations.OpcodeRowsDoNotOverlap : Prop :=
  ∀ w : Word, (opcodeRows.filter (fun r => r.matches w)).length ≤ 1

/-! ## Reset -/

/-- The reset state with no image, for any named arguments and reset time (10_state R39, 70_reset R340, R341; decisions
D15 to D17). `State.reset` is that state for the default arguments and T0 = 0, the model's choice of T0 (log entry 4).
The port fields are the model's own (log entry 3) and are not stated. -/
def Obligations.ResetGivesEveryComponentItsValue : Prop :=
  (∀ (p : Config.Params) (t0 : Nat),
    (∀ x, (State.blank p t0).reg x = 0) ∧ (State.blank p t0).pc = 0x200 ∧ (State.blank p t0).index = 0
    ∧ (State.blank p t0).sp.val = 0 ∧ (∀ j (h : j < 16), (State.blank p t0).stack[j] = 0)
    ∧ (State.blank p t0).dt = 0 ∧ (State.blank p t0).st = 0 ∧ (State.blank p t0).last = t0
    ∧ (∀ d j (hd : d < 16) (hj : j < 5), (State.blank p t0).readByte (d * 5 + j) = p.font[d][j])
    ∧ (∀ a, 0x050 ≤ a → a ≤ 0xFFF → (State.blank p t0).readByte a = 0)
    ∧ (∀ px py, (State.blank p t0).cell px py = false) ∧ (State.blank p t0).dirty = true
    ∧ (State.blank p t0).run = .running ∧ (State.blank p t0).params = p)
  ∧ State.reset = State.blank defaultParams 0

/-- An image of at most 3584 bytes loads at 0x200: the memory of 70_reset R341, canonical, and every other component at
its reset value (R340, R342; decisions D15, D16). -/
def Obligations.ImageLoadsAtProgramBase : Prop :=
  ∀ (p : Config.Params) (image : List Byte) (t0 : Nat), image.length ≤ 3584 →
    ∃ s, resetWith p (some image) t0 = .ok s
      ∧ (∀ d j (hd : d < 16) (hj : j < 5), s.readByte (d * 5 + j) = p.font[d][j])
      ∧ (∀ a, 0x050 ≤ a → a ≤ 0x1FF → s.readByte a = 0)
      ∧ (∀ k (h : k < image.length), s.readByte (0x200 + k) = image[k])
      ∧ (∀ a, 0x200 + image.length ≤ a → a ≤ 0xFFF → s.readByte a = 0)
      ∧ Memory.wf p.font s.mem = true ∧ { s with mem := [] } = State.blank p t0

/-- An image that cannot be read, or is longer than 3584 bytes, gives no state to run, and the failure has kind
ImageLoadFailure and code 1 (70_reset R342, 60_exceptions R303, R307; decision D16). -/
def Obligations.UnloadableImageStartsNoRun : Prop :=
  (∀ (p : Config.Params) (t0 : Nat), resetWith p none t0 = .error .unreadable)
  ∧ (∀ (p : Config.Params) (image : List Byte) (t0 : Nat), image.length > 3584 →
      resetWith p (some image) t0 = .error .tooLong)
  ∧ (∀ f : LoadFailure, f.kind = .imageLoadFailure ∧ f.code = ⟨1, 0⟩)

/-! ## The tick -/

/-- When the two bytes at pc decode to a well-formed instruction, the step is the execute of it, followed by what the
tick adds: after a live execute the timer update (60_exceptions R315), the dirty report (R320) and the sound output
(R321), or after a fault the diagnostic as the one output (R305, R306); then the tick's inputs are used up. The
model's choices in it: the inputs and the tick count (log entry 2), the integer time unit (log entry 5), zero periods
where now is before last, which R322 makes the host's duty to avoid (log entry 6), and empty ports (log entry 9). -/
def Obligations.StepRunsTheDecodedInstruction : Prop :=
  ∀ (s : State) (i : Instr), s.run = .running → s.input.terminate = false → s.pc.toNat + 1 ≤ 0xFFF →
    decodeWord (s.readByte s.pc.toNat ++ s.readByte (s.pc.toNat + 1)) = .ok i → i.wf = true →
    ∃ t, exec i s = .next t
      ∧ (t.run.isFaulted = false →
          let k := (s.input.now - s.last) / (s.params.subdivision + 1)
          step s = .next { t with
            dt := countDown t.dt k, st := countDown t.st k, last := s.last + k * (s.params.subdivision + 1),
            dirty := false, inputs := s.inputs.tail, ticks := s.ticks + 1,
            out := { redraw := some t.dirty, soundActive := some (countDown t.st k != 0), fault := none } })
      ∧ (∀ d, t.run = .faulted d →
          step s = .next { t with
            inputs := s.inputs.tail, ticks := s.ticks + 1,
            out := { redraw := none, soundActive := none, fault := some d } })

/-- A running tick whose pc + 1 passes 0xFFF faults with FetchOutOfRange, addr = pc and no word, and changes nothing
else of the core (20_memory R53, 60_exceptions R303; decision D7). The inputs, the tick count and the empty ports are
the model's (log entries 2, 9). -/
def Obligations.FetchPastMemoryFaults : Prop :=
  ∀ s : State, s.run = .running → s.input.terminate = false → s.pc.toNat + 1 > 0xFFF →
    step s = .next { s with
      run := .faulted { reason := .fetchOutOfRange, addr := s.pc, word := none },
      inputs := s.inputs.tail, ticks := s.ticks + 1,
      out := { redraw := none, soundActive := none,
               fault := some { reason := .fetchOutOfRange, addr := s.pc, word := none } } }

/-- A running tick that fetches a word no instruction decodes from faults with DecodeFailure, word = w and addr = pc,
and changes no state of the core other than run (30_encoding R87), and the diagnostic is the tick's output (60_exceptions
R306). That the other ports are empty, and how the inputs and the tick count move on, is the model's (log entries 2,
9). -/
def Obligations.DecodeFailureFaultsWithItsWord : Prop :=
  ∀ (s : State) (w : Word), s.run = .running → s.input.terminate = false → s.pc.toNat + 1 ≤ 0xFFF →
    s.readByte s.pc.toNat ++ s.readByte (s.pc.toNat + 1) = w → (∀ i, decodeWord w ≠ .ok i) →
    step s = .next { s with
      run := .faulted { reason := .decodeFailure, addr := s.pc, word := some w },
      inputs := s.inputs.tail, ticks := s.ticks + 1,
      out := { redraw := none, soundActive := none,
               fault := some { reason := .decodeFailure, addr := s.pc, word := some w } } }

/-- A set `terminate` ends a live run and does nothing else: no fetch, execute, poll, timer update or report
(60_exceptions R302; decision D31). The inputs, the tick count and the empty ports are the model's (log entries 2,
9). -/
def Obligations.TerminationEndsALiveRun : Prop :=
  ∀ s : State, s.run.ended = false → s.input.terminate = true →
    step s = .next { s with
      run := .terminated, inputs := s.inputs.tail, ticks := s.ticks + 1,
      out := { redraw := none, soundActive := none, fault := none } }

/-- After the end of a run any number of ticks answer a next state that differs from it in the model's port fields
only (60_exceptions R326, R305). Those fields are the model's (log entries 2, 3, 9). -/
def Obligations.EndedRunIgnoresEveryTick : Prop :=
  ∀ (n : Nat) (s : State), s.run.ended = true →
    ∃ t, Host.Core.run Sys2Proof.core n s = .next t
      ∧ { t with inputs := s.inputs, ticks := s.ticks, out := s.out } = s

/-- A waiting tick without termination: a press loads the button id into V[x], advances pc by 2 and ends the wait; no
press changes none of these. Either way the timers count and the reports are made (44_input_timer_random R214,
60_exceptions R316; decisions D19, D21, D23). The model's choices in it: the input the tick reads (log entry 2), the
integer time unit (log entry 5), zero periods where now is before last, which R322 makes the host's duty to avoid (log
entry 6), and the form of the ports (log entry 9). -/
def Obligations.WaitingTickPollsForAPress : Prop :=
  ∀ (s : State) (x : RegIdx), s.run = .awaitingKey x → s.input.terminate = false →
    ∃ t, step s = .next t
      ∧ (∀ k, s.input.press = some k →
          (t.reg x).toNat = k.toNat ∧ (∀ r, r ≠ x → t.reg r = s.reg r) ∧ t.pc = s.pc + 2 ∧ t.run = .running)
      ∧ (s.input.press = none → t.v = s.v ∧ t.pc = s.pc ∧ t.run = s.run)
      ∧ (let k := (s.input.now - s.last) / (s.params.subdivision + 1)
        t.dt.toNat = s.dt.toNat - k ∧ t.st.toNat = s.st.toNat - k ∧ t.last = s.last + k * (s.params.subdivision + 1))
      ∧ t.dirty = false
      ∧ t.out = { redraw := some s.dirty, soundActive := some (decide (t.st.toNat ≠ 0)), fault := none }
      ∧ t.index = s.index ∧ t.stack = s.stack ∧ t.sp = s.sp ∧ t.mem = s.mem ∧ t.fb = s.fb ∧ t.params = s.params

/-! ## The timer engine -/

/-- The timer update: k complete periods have passed, each timer loses k but never goes below 0, and the timestamp
advances by whole periods, keeping a remainder smaller than one (60_exceptions R315; decision D22; the integer unit
is the model's, log entry 5). -/
def Obligations.TimerUpdateCountsCompletePeriods : Prop :=
  ∀ (s : State) (now : Nat), s.last ≤ now →
    let q := s.params.subdivision + 1
    let t := timerUpdate now s
    (∃ k, t.last = s.last + k * q ∧ t.dt.toNat = s.dt.toNat - min s.dt.toNat k
      ∧ t.st.toNat = s.st.toNat - min s.st.toNat k)
    ∧ t.last ≤ now ∧ now < t.last + q ∧ { t with dt := s.dt, st := s.st, last := s.last } = s

/-- Any sequence of updates at non-decreasing times leaves the timers and the timestamp where the one update at the
last time leaves them: the count does not depend on how many ticks there were or how they were spaced (60_exceptions
R317, which the spec derives from R315). Times are in the model's integer unit (log entry 5). -/
def Obligations.TimerCountIsIndependentOfTickSpacing : Prop :=
  ∀ (s : State) (times : List Nat) (tm : Nat), (s.last :: (times ++ [tm])).Pairwise (· ≤ ·) →
    (times ++ [tm]).foldl (fun u now => timerUpdate now u) s = timerUpdate tm s

/-! ## Faults -/

/-- The code and the kind of every diagnostic, reason by reason (60_exceptions R303; decision D34). -/
def Obligations.FaultCodesAndKinds : Prop :=
  ∀ d : Diag, (d.code, d.kind) = match d.reason with
    | .decodeFailure => (⟨2, 0⟩, .decodeFailure)
    | .stackOverflow => (⟨3, 1⟩, .preconditionViolation)
    | .stackUnderflow => (⟨3, 2⟩, .preconditionViolation)
    | .memoryOutOfRange => (⟨3, 3⟩, .preconditionViolation)
    | .fetchOutOfRange => (⟨3, 4⟩, .preconditionViolation)
    | .jumpOutOfRange => (⟨3, 5⟩, .preconditionViolation)
    | .indexOverflow => (⟨3, 6⟩, .preconditionViolation)

/-- An execute that moves a live run to faulted is of an instruction that can fault, faults for that instruction's one
reason, and changes nothing but the run, which holds pc and the instruction's word (60_exceptions R304 to R306, which
the spec derives or decides: D24, D34). -/
def Obligations.FaultsArePreciseAndListed : Prop :=
  ∀ (i : Instr) (s t : State), s.run.isFaulted = false → exec i s = .next t → t.run.isFaulted = true →
    ∃ r, faultOf i = some r ∧ t = faultState i r s

/-- The execute of an instruction on a live run faults exactly when the exception line of its rule says so
(60_exceptions R303; the rules of the eight instructions of R304; decisions D6, D9, D10). -/
def Obligations.InstructionsFaultExactlyWhenTheirRulesSay : Prop :=
  ∀ (i : Instr) (s : State), s.run.isFaulted = false →
    ((∃ t, exec i s = .next t ∧ t.run.isFaulted = true) ↔ faultsWhen i s)

/-- A tick that faults changes nothing of the core but the run, whatever faulted (fetch, decode or the instruction): no
write commits, no timer update, no dirty report; the diagnostic is its one output (60_exceptions R305, R306;
decisions D23, D24). The inputs, the tick count and the empty ports are the model's (log entries 2, 9). -/
def Obligations.FaultingTickChangesOnlyTheRun : Prop :=
  ∀ s t : State, s.run.ended = false → step s = .next t → t.run.isFaulted = true →
    ∃ d, t.run = .faulted d ∧ d.addr = s.pc
      ∧ t.out = { redraw := none, soundActive := none, fault := some d }
      ∧ { t with run := s.run, inputs := s.inputs, ticks := s.ticks, out := s.out } = s

/-! ## Frames -/

/-- A general register the table of 10_state R22 does not list for an instruction (or VF for a non-flag writer, R26)
keeps its value in every execute. -/
def Obligations.ExecuteKeepsUnlistedRegisters : Prop :=
  ∀ (i : Instr) (s t : State) (r : RegIdx), exec i s = .next t → writesReg i r = false → t.reg r = s.reg r

/-- Every byte outside the bytes an instruction stores reads as before, and for an instruction that stores nothing
every byte does; the stored bytes start at I, as the meanings compute it (20_memory R56). -/
def Obligations.ExecuteKeepsBytesOutsideTheStore : Prop :=
  ∀ (i : Instr) (s t : State), exec i s = .next t →
    (∀ a len, storesTo i s = some (a, len) → ∀ a', (a' < a ∨ a + len ≤ a') → t.readByte a' = s.readByte a')
    ∧ (storesTo i s = none → t.mem = s.mem ∧ ∀ a', t.readByte a' = s.readByte a')

/-- Outside the general registers, pc and memory: I is written by Annn, Fx1E and Fx29 only; the stack and SP by 2nnn
and 00EE only; DT by Fx15 only and ST by Fx18 only; the framebuffer and dirty by 00E0 and Dxyn only; the run by Fx0A
or a fault only; the timestamp, the named arguments and the port fields by no execute (10_state R27, R34, R37;
40_control_flow R119; 44_input_timer_random R223). -/
def Obligations.ExecuteKeepsUnlistedSpecialState : Prop :=
  ∀ (i : Instr) (s t : State), exec i s = .next t →
    (writesIndex i = false → t.index = s.index)
    ∧ (writesStack i = false → t.stack = s.stack ∧ t.sp = s.sp)
    ∧ ((∀ x, i ≠ .ldDtVx x) → t.dt = s.dt) ∧ ((∀ x, i ≠ .ldStVx x) → t.st = s.st)
    ∧ (writesScreen i = false → t.fb = s.fb ∧ t.dirty = s.dirty)
    ∧ ((∀ x, i ≠ .ldVxK x) → t.run.isFaulted = false → t.run = s.run)
    ∧ t.last = s.last ∧ t.params = s.params ∧ t.inputs = s.inputs ∧ t.ticks = s.ticks ∧ t.out = s.out

/-! ## Control flow -/

/-- SE and SNE with an immediate: pc advances by 4 when V[x] equals (differs from) kk, else by 2; nothing else changes
(40_control_flow R111, R112). -/
def Obligations.SkipsOnImmediate : Prop :=
  ∀ (x : RegIdx) (kk : Byte) (s : State),
    decodeWord (0b0011#4 ++ x ++ kk) = .ok (.seImm x kk) ∧ decodeWord (0b0100#4 ++ x ++ kk) = .ok (.sneImm x kk)
    ∧ exec (.seImm x kk) s = .next { s with pc := if s.reg x = kk then s.pc + 4 else s.pc + 2 }
    ∧ exec (.sneImm x kk) s = .next { s with pc := if s.reg x = kk then s.pc + 2 else s.pc + 4 }

/-- SE and SNE with two registers: pc advances by 4 when they are equal (differ), else by 2; nothing else changes
(40_control_flow R113, R114). -/
def Obligations.SkipsOnRegisters : Prop :=
  ∀ (x y : RegIdx) (s : State),
    decodeWord (0b0101#4 ++ x ++ y ++ 0x0#4) = .ok (.seReg x y)
    ∧ decodeWord (0b1001#4 ++ x ++ y ++ 0x0#4) = .ok (.sneReg x y)
    ∧ exec (.seReg x y) s = .next { s with pc := if s.reg x = s.reg y then s.pc + 4 else s.pc + 2 }
    ∧ exec (.sneReg x y) s = .next { s with pc := if s.reg x = s.reg y then s.pc + 2 else s.pc + 4 }

/-- Every skip instruction ends with SkipIf: there is a condition such that, whatever memory holds (the skipped word
among it, legal or not), the execute answers pc + 4 or pc + 2 and changes nothing else (40_control_flow R110). -/
def Obligations.SkipsNeverLookAtTheSkippedWord : Prop :=
  ∀ (i : Instr) (s : State),
    (∃ x y kk, i ∈ [.seImm x kk, .sneImm x kk, .seReg x y, .sneReg x y, .skp x, .sknp x]) →
    ∃ c : Bool, ∀ m : Memory, exec i { s with mem := m } =
      .next { s with mem := m, pc := if c = true then s.pc + 4 else s.pc + 2 }

/-- JP: pc becomes nnn, zero-extended; nothing else changes (40_control_flow R115). -/
def Obligations.JumpSetsPc : Prop :=
  ∀ (nnn : Addr) (s : State), decodeWord (0b0001#4 ++ nnn) = .ok (.jp nnn)
    ∧ ∃ t, exec (.jp nnn) s = .next t ∧ t.pc.toNat = nnn.toNat ∧ { t with pc := s.pc } = s

/-- CALL: below SP = 16, pc + 2 is stored in the slot at SP, SP is one more and pc is nnn; the other slots and the rest
of the state keep their values; at SP = 16 it faults with StackOverflow and writes nothing (40_control_flow R116). -/
def Obligations.CallPushesAndJumps : Prop :=
  ∀ (nnn : Addr) (s : State), decodeWord (0b0010#4 ++ nnn) = .ok (.call nnn)
    ∧ (∀ h : s.sp.val < 16, ∃ t, exec (.call nnn) s = .next t ∧ t.stack[s.sp.val] = s.pc + 2
        ∧ (∀ j (hj : j < 16), j ≠ s.sp.val → t.stack[j] = s.stack[j])
        ∧ t.sp.val = s.sp.val + 1 ∧ t.pc.toNat = nnn.toNat
        ∧ { t with stack := s.stack, sp := s.sp, pc := s.pc } = s)
    ∧ (s.sp.val = 16 → exec (.call nnn) s = .next (faultState (.call nnn) .stackOverflow s))

/-- RET: above SP = 0, SP is one less and pc is the slot at the new SP; every slot and the rest of the state keep their
values; at SP = 0 it faults with StackUnderflow and writes nothing (40_control_flow R117). -/
def Obligations.ReturnPops : Prop :=
  decodeWord 0b0000000011101110 = .ok .ret
  ∧ ∀ s : State,
    (∀ h : 0 < s.sp.val, ∃ t, exec .ret s = .next t ∧ t.sp.val = s.sp.val - 1
      ∧ t.pc = s.stack[s.sp.val - 1]'(by have := s.sp.isLt; omega) ∧ { t with sp := s.sp, pc := s.pc } = s)
    ∧ (s.sp.val = 0 → exec .ret s = .next (faultState .ret .stackUnderflow s))

/-- Calls nested up to depth 16 and then as many returns: pc is the address after the first call and SP is what it was;
one more call at depth 16 faults (40_control_flow R116, R117, quoting the source's testable property). -/
def Obligations.NestedCallsReturnInOrder : Prop :=
  ∀ (first : Addr) (rest : List Addr) (s : State), s.sp.val + (rest.length + 1) ≤ 16 →
    (∃ t, execAll ((first :: rest).map Instr.call ++ List.replicate (rest.length + 1) Instr.ret) s = .next t
      ∧ t.pc = s.pc + 2 ∧ t.sp = s.sp ∧ { t with pc := s.pc, stack := s.stack } = s)
    ∧ (s.sp.val + (rest.length + 1) = 16 → ∀ a : Addr,
        ∃ t, execAll ((first :: rest).map Instr.call ++ [.call a]) s = .next t
          ∧ ∃ d, t.run = .faulted d ∧ d.reason = .stackOverflow)

/-- JP V0: pc becomes nnn + V0 when that is at most 0xFFF; above, it faults with JumpOutOfRange; nothing else changes
(40_control_flow R118; decision D6). -/
def Obligations.JumpWithV0 : Prop :=
  ∀ (nnn : Addr) (s : State),
    (nnn.toNat + (s.reg 0).toNat ≤ 0xFFF →
      ∃ t, exec (.jpV0 nnn) s = .next t ∧ t.pc.toNat = nnn.toNat + (s.reg 0).toNat ∧ { t with pc := s.pc } = s)
    ∧ (nnn.toNat + (s.reg 0).toNat > 0xFFF →
      exec (.jpV0 nnn) s = .next (faultState (.jpV0 nnn) .jumpOutOfRange s))

/-! ## ALU -/

/-- LD Vx, kk (41_alu R141). -/
def Obligations.LoadImmediate : Prop :=
  ∀ (x : RegIdx) (kk : Byte) (s : State), decodeWord (0b0110#4 ++ x ++ kk) = .ok (.ldImm x kk)
    ∧ ∃ t, exec (.ldImm x kk) s = .next t ∧ WritesOneReg s t x kk

/-- ADD Vx, kk: the sum modulo 256, and no flag (41_alu R142; decision D4). -/
def Obligations.AddImmediateWithoutFlag : Prop :=
  ∀ (x : RegIdx) (kk : Byte) (s : State),
    ∃ t b, exec (.addImm x kk) s = .next t ∧ b.toNat = ((s.reg x).toNat + kk.toNat) % 256 ∧ WritesOneReg s t x b

/-- LD Vx, Vy (41_alu R143, general knowledge of the spec's author). -/
def Obligations.CopyRegister : Prop :=
  ∀ (x y : RegIdx) (s : State), ∃ t, exec (.ldReg x y) s = .next t ∧ WritesOneReg s t x (s.reg y)

/-- OR, AND and XOR: the bitwise result in V[x] and no flag, VF included (41_alu R144, R145, R146). -/
def Obligations.BitwiseWithoutFlag : Prop :=
  ∀ (x y : RegIdx) (s : State),
    decodeWord (0b1000#4 ++ x ++ y ++ 0b0001#4) = .ok (.orReg x y)
    ∧ decodeWord (0b1000#4 ++ x ++ y ++ 0b0010#4) = .ok (.andReg x y)
    ∧ decodeWord (0b1000#4 ++ x ++ y ++ 0b0011#4) = .ok (.xorReg x y)
    ∧ (∃ t, exec (.orReg x y) s = .next t ∧ WritesOneReg s t x (s.reg x ||| s.reg y))
    ∧ (∃ t, exec (.andReg x y) s = .next t ∧ WritesOneReg s t x (s.reg x &&& s.reg y))
    ∧ (∃ t, exec (.xorReg x y) s = .next t ∧ WritesOneReg s t x (s.reg x ^^^ s.reg y))

/-- ADD Vx, Vy: the sum modulo 256, and VF = 1 exactly when the sum exceeds 255 (41_alu R147). -/
def Obligations.AddWithCarryFlag : Prop :=
  ∀ (x y : RegIdx) (s : State), decodeWord (0b1000#4 ++ x ++ y ++ 0b0100#4) = .ok (.addReg x y)
    ∧ ∃ t, exec (.addReg x y) s = .next t
      ∧ WritesResultAndFlag s t x (((s.reg x).toNat + (s.reg y).toNat) % 256)
          (if (s.reg x).toNat + (s.reg y).toNat > 255 then 1 else 0)

/-- SUB and SUBN: the difference modulo 256, and VF = 1 exactly when there is no borrow (41_alu R148, R150). -/
def Obligations.SubtractWithNoBorrowFlag : Prop :=
  ∀ (x y : RegIdx) (s : State),
    decodeWord (0b1000#4 ++ x ++ y ++ 0b0101#4) = .ok (.subReg x y)
    ∧ decodeWord (0b1000#4 ++ x ++ y ++ 0b0111#4) = .ok (.subnReg x y)
    ∧ (∃ t, exec (.subReg x y) s = .next t
        ∧ WritesResultAndFlag s t x (((s.reg x).toNat + 256 - (s.reg y).toNat) % 256)
            (if (s.reg x).toNat ≥ (s.reg y).toNat then 1 else 0))
    ∧ (∃ t, exec (.subnReg x y) s = .next t
        ∧ WritesResultAndFlag s t x (((s.reg y).toNat + 256 - (s.reg x).toNat) % 256)
            (if (s.reg y).toNat ≥ (s.reg x).toNat then 1 else 0))

/-- SHR and SHL: V[x] shifted by one, and VF the bit shifted out as 0 or 1; the y field has no effect (41_alu R149,
R151). -/
def Obligations.ShiftsPutTheLostBitInVF : Prop :=
  ∀ (x y : RegIdx) (s : State),
    decodeWord (0b1000#4 ++ x ++ y ++ 0b0110#4) = .ok (.shr x y)
    ∧ decodeWord (0b1000#4 ++ x ++ y ++ 0b1110#4) = .ok (.shl x y)
    ∧ (∃ t, exec (.shr x y) s = .next t
        ∧ WritesResultAndFlag s t x ((s.reg x).toNat / 2) ((s.reg x).toNat % 2))
    ∧ (∃ t, exec (.shl x y) s = .next t
        ∧ WritesResultAndFlag s t x ((s.reg x).toNat * 2 % 256) ((s.reg x).toNat / 128))

/-- After a flag writer that did not fault, VF is 0 or 1, unless VF was the destination under ResultWins (10_state
R26). -/
def Obligations.WrittenFlagIsZeroOrOne : Prop :=
  ∀ (i : Instr) (s t : State) (x y : RegIdx) (n : BitVec 4),
    i ∈ [.addReg x y, .subReg x y, .shr x y, .subnReg x y, .shl x y, .drw x y n] →
    (x ≠ vf ∨ s.params.vfDest = .flagWins ∨ i = .drw x y n) → exec i s = .next t → t.run.isFaulted = false →
    (t.reg vf = 0 ∨ t.reg vf = 1)

/-! ## Index register and memory -/

/-- LD I: I becomes nnn, zero-extended; pc advances by 2; nothing else changes (42_index_memory R170). -/
def Obligations.LoadIndex : Prop :=
  ∀ (nnn : Addr) (s : State), decodeWord (0b1010#4 ++ nnn) = .ok (.ldI nnn)
    ∧ ∃ t, exec (.ldI nnn) s = .next t ∧ t.index.toNat = nnn.toNat ∧ t.pc = s.pc + 2
      ∧ { t with index := s.index, pc := s.pc } = s

/-- ADD I: I + V[x] when that fits 16 bits, without a flag; above, IndexOverflow and nothing written (42_index_memory
R171; decisions D8, D9). -/
def Obligations.AddToIndex : Prop :=
  ∀ (x : RegIdx) (s : State),
    (s.index.toNat + (s.reg x).toNat ≤ 0xFFFF →
      ∃ t, exec (.addIVx x) s = .next t ∧ t.index.toNat = s.index.toNat + (s.reg x).toNat ∧ t.pc = s.pc + 2
        ∧ { t with index := s.index, pc := s.pc } = s)
    ∧ (s.index.toNat + (s.reg x).toNat > 0xFFFF →
      exec (.addIVx x) s = .next (faultState (.addIVx x) .indexOverflow s))

/-- LD F: I becomes five times the low nibble of V[x]; pc advances by 2; nothing else changes (42_index_memory R172). -/
def Obligations.FontAddress : Prop :=
  ∀ (x : RegIdx) (s : State), decodeWord (0b1111#4 ++ x ++ 0b00101001#8) = .ok (.ldFVx x)
    ∧ ∃ t, exec (.ldFVx x) s = .next t ∧ t.index.toNat = (s.reg x).toNat % 16 * 5 ∧ t.pc = s.pc + 2
      ∧ { t with index := s.index, pc := s.pc } = s

/-- LD B: in range, the hundreds, tens and units of V[x] at I, I + 1, I + 2, each a decimal digit, every other byte and
the rest of the state as before, pc advanced by 2 and I unchanged; out of range, MemoryOutOfRange and nothing written
(42_index_memory R173; decisions D10, D30). -/
def Obligations.BcdStoresDecimalDigits : Prop :=
  ∀ (x : RegIdx) (s : State), Memory.wf s.params.font s.mem = true →
    (s.index.toNat + 2 ≤ 0xFFF →
      ∃ t, exec (.ldBVx x) s = .next t
        ∧ (t.readByte s.index.toNat).toNat * 100 + (t.readByte (s.index.toNat + 1)).toNat * 10
            + (t.readByte (s.index.toNat + 2)).toNat = (s.reg x).toNat
        ∧ (t.readByte s.index.toNat).toNat ≤ 2 ∧ (t.readByte (s.index.toNat + 1)).toNat ≤ 9
        ∧ (t.readByte (s.index.toNat + 2)).toNat ≤ 9
        ∧ (∀ a, (a < s.index.toNat ∨ s.index.toNat + 3 ≤ a) → t.readByte a = s.readByte a)
        ∧ t.pc = s.pc + 2 ∧ { t with mem := s.mem, pc := s.pc } = s)
    ∧ (s.index.toNat + 2 > 0xFFF → exec (.ldBVx x) s = .next (faultState (.ldBVx x) .memoryOutOfRange s))

/-- LD [I]: in range, V[k] at I + k for k up to x, every other byte and the rest of the state as before, pc advanced by
2 and I unchanged; out of range, MemoryOutOfRange and nothing written (42_index_memory R174; decision D10). -/
def Obligations.BlockStore : Prop :=
  ∀ (x : RegIdx) (s : State), Memory.wf s.params.font s.mem = true →
    (s.index.toNat + x.toNat ≤ 0xFFF →
      ∃ t, exec (.ldMemVx x) s = .next t
        ∧ (∀ k : RegIdx, k.toNat ≤ x.toNat → t.readByte (s.index.toNat + k.toNat) = s.reg k)
        ∧ (∀ a, (a < s.index.toNat ∨ s.index.toNat + x.toNat < a) → t.readByte a = s.readByte a)
        ∧ t.pc = s.pc + 2 ∧ { t with mem := s.mem, pc := s.pc } = s)
    ∧ (s.index.toNat + x.toNat > 0xFFF → exec (.ldMemVx x) s = .next (faultState (.ldMemVx x) .memoryOutOfRange s))

/-- LD Vx, [I]: in range, V[k] becomes the byte at I + k for k up to x, the registers above x and the rest of the state
as before, pc advanced by 2 and I unchanged; out of range, MemoryOutOfRange and nothing written (42_index_memory
R175; decision D10). -/
def Obligations.BlockLoad : Prop :=
  ∀ (x : RegIdx) (s : State),
    (s.index.toNat + x.toNat ≤ 0xFFF →
      ∃ t, exec (.ldVxMem x) s = .next t
        ∧ (∀ k : RegIdx, t.reg k = if k.toNat ≤ x.toNat then s.readByte (s.index.toNat + k.toNat) else s.reg k)
        ∧ { t with v := s.v } = { s with pc := s.pc + 2 })
    ∧ (s.index.toNat + x.toNat > 0xFFF → exec (.ldVxMem x) s = .next (faultState (.ldVxMem x) .memoryOutOfRange s))

/-- Storing V0..Vx and loading them back, with no store in between and I as it was, restores those registers whatever
they held meanwhile (42_index_memory R174, R175; 20_memory R59). -/
def Obligations.BlockLoadUndoesBlockStore : Prop :=
  ∀ (x : RegIdx) (s t u : State), Memory.wf s.params.font s.mem = true → s.index.toNat + x.toNat ≤ 0xFFF →
    exec (.ldMemVx x) s = .next t → u.mem = t.mem → u.params = t.params → u.index = t.index →
    ∃ w, exec (.ldVxMem x) u = .next w
      ∧ ∀ k : RegIdx, w.reg k = if k.toNat ≤ x.toNat then s.reg k else u.reg k

/-- Bytes a block store writes are what a later fetch from them sees: self-modifying code is well defined (20_memory
R63, which the spec derives). -/
def Obligations.StoredBytesAreFetched : Prop :=
  ∀ (x k k' : RegIdx) (s t : State), Memory.wf s.params.font s.mem = true → s.index.toNat + x.toNat ≤ 0xFFF →
    k.toNat + 1 = k'.toNat → k'.toNat ≤ x.toNat → exec (.ldMemVx x) s = .next t →
    ∀ u : State, u.mem = t.mem → u.params = t.params → u.pc.toNat = s.index.toNat + k.toNat →
      u.fetchWord = s.reg k ++ s.reg k'

/-! ## Blitter -/

/-- CLS: every cell is clear, dirty is set, pc advances by 2, nothing else changes (43_blitter R190; decision D14). -/
def Obligations.ClearScreen : Prop :=
  decodeWord 0b0000000011100000 = .ok .cls
  ∧ ∀ s : State, ∃ t, exec .cls s = .next t ∧ (∀ px py, t.cell px py = false) ∧ t.dirty = true ∧ t.pc = s.pc + 2
    ∧ { t with fb := s.fb, dirty := s.dirty, pc := s.pc } = s

/-- DRW in range: every cell of the grid is its old value XOR the sprite bit that lands on it (none where the sprite is
clipped), VF = 1 exactly when a 1 bit landed on a set cell, dirty becomes set exactly when a 1 bit landed on the grid,
pc advances by 2, nothing else changes. It holds for n = 0 (no check, VF 0, nothing drawn) and for x or y = F, whose
old value is the coordinate (43_blitter R191 to R196; decisions D10 to D14). -/
def Obligations.DrawXorsTheClippedSprite : Prop :=
  ∀ (x y : RegIdx) (n : BitVec 4) (s : State), (n = 0 ∨ s.index.toNat + n.toNat - 1 ≤ 0xFFF) →
    ∃ t, exec (.drw x y n) s = .next t
      ∧ (∀ px py, px < 64 → py < 32 → t.cell px py = (s.cell px py ^^ spriteCovers x y n s px py))
      ∧ (SomeCell (fun px py => s.cell px py && spriteCovers x y n s px py) → t.reg vf = 1)
      ∧ (¬ SomeCell (fun px py => s.cell px py && spriteCovers x y n s px py) → t.reg vf = 0)
      ∧ (t.dirty = true ↔ s.dirty = true ∨ SomeCell (spriteCovers x y n s))
      ∧ (∀ r, r ≠ vf → t.reg r = s.reg r) ∧ t.pc = s.pc + 2
      ∧ { t with fb := s.fb, v := s.v, dirty := s.dirty, pc := s.pc } = s

/-- Drawing the same sprite twice at the same place restores every cell, and when the first draw hit no set cell but put
some 1 bit on the grid, the second reports a collision (43_blitter R194, quoting the source's testable property). VF
holds no coordinate. -/
def Obligations.DrawingTwiceErases : Prop :=
  ∀ (x y : RegIdx) (n : BitVec 4) (s t : State), x ≠ vf → y ≠ vf → (n = 0 ∨ s.index.toNat + n.toNat - 1 ≤ 0xFFF) →
    exec (.drw x y n) s = .next t →
    ∃ u, exec (.drw x y n) t = .next u ∧ u.fb = s.fb
      ∧ (t.reg vf = 0 → SomeCell (spriteCovers x y n s) → u.reg vf = 1)

/-- DRW out of range faults with MemoryOutOfRange, draws nothing and leaves VF as it was (43_blitter R191; decision
D10). -/
def Obligations.DrawPastMemoryFaults : Prop :=
  ∀ (x y : RegIdx) (n : BitVec 4) (s : State), n ≠ 0 → s.index.toNat + n.toNat - 1 > 0xFFF →
    exec (.drw x y n) s = .next (faultState (.drw x y n) .memoryOutOfRange s)

/-! ## Input, timers, random -/

/-- SKP and SKNP: pc advances by 4 when the button named by the low nibble of V[x] is pressed (is not pressed) in this
tick's snapshot, else by 2; nothing else changes (44_input_timer_random R211, R212). -/
def Obligations.SkipsOnKey : Prop :=
  ∀ (x : RegIdx) (s : State),
    decodeWord (0b1110#4 ++ x ++ 0b10011110#8) = .ok (.skp x)
    ∧ decodeWord (0b1110#4 ++ x ++ 0b10100001#8) = .ok (.sknp x)
    ∧ exec (.skp x) s = .next { s with
        pc := if s.input.keys.getLsbD ((s.reg x).toNat % 16) = true then s.pc + 4 else s.pc + 2 }
    ∧ exec (.sknp x) s = .next { s with
        pc := if s.input.keys.getLsbD ((s.reg x).toNat % 16) = true then s.pc + 2 else s.pc + 4 }

/-- LD Vx, K: the run waits for register x; pc, every register and the rest of the state are unchanged
(44_input_timer_random R213; decision D19). -/
def Obligations.KeyWaitHoldsPc : Prop :=
  ∀ (x : RegIdx) (s : State), exec (.ldVxK x) s = .next { s with run := .awaitingKey x }

/-- LD Vx, DT; LD DT, Vx; LD ST, Vx: the copies, pc advanced by 2, nothing else changed (44_input_timer_random R220,
R221, R222). -/
def Obligations.TimerCopies : Prop :=
  ∀ (x : RegIdx) (s : State),
    decodeWord (0b1111#4 ++ x ++ 0b00000111#8) = .ok (.ldVxDt x)
    ∧ decodeWord (0b1111#4 ++ x ++ 0b00010101#8) = .ok (.ldDtVx x)
    ∧ decodeWord (0b1111#4 ++ x ++ 0b00011000#8) = .ok (.ldStVx x)
    ∧ (∃ t, exec (.ldVxDt x) s = .next t ∧ WritesOneReg s t x s.dt)
    ∧ exec (.ldDtVx x) s = .next { s with dt := s.reg x, pc := s.pc + 2 }
    ∧ exec (.ldStVx x) s = .next { s with st := s.reg x, pc := s.pc + 2 }

/-- RND: V[x] is this tick's random byte AND kk, so its bits outside kk are 0; pc advances by 2, nothing else changes
(44_input_timer_random R224). The random byte is any byte: it is an input the state lists or a free draw. -/
def Obligations.RandomByteIsMasked : Prop :=
  ∀ (x : RegIdx) (kk : Byte) (s : State), decodeWord (0b1100#4 ++ x ++ kk) = .ok (.rnd x kk)
    ∧ ∃ t, exec (.rnd x kk) s = .next t ∧ WritesOneReg s t x (s.input.randByte &&& kk)
      ∧ ∀ b : Nat, kk.getLsbD b = false → (t.reg x).getLsbD b = false

/-! ## Whole-machine rules -/

/-- No instruction reads ST: any other value of it changes no execute, but for Fx18, which overwrites it (10_state
R31). -/
def Obligations.NoInstructionReadsTheSoundTimer : Prop :=
  ∀ (i : Instr) (s t : State) (b : Byte), exec i s = .next t →
    exec i { s with st := b } = .next (match i with
      | .ldStVx _ => t
      | _ => { t with st := b })

/-- Only Ex9E, ExA1 and Cxkk read a tick's inputs in their execute: for every other instruction the inputs change
nothing (10_state R40, 60_exceptions R319). -/
def Obligations.OnlyKeyAndRandomInstructionsReadInputs : Prop :=
  ∀ (i : Instr) (s t : State) (l : List Config.TickInput) (n : Nat),
    (∀ x, i ≠ .skp x ∧ i ≠ .sknp x ∧ ∀ kk, i ≠ .rnd x kk) → exec i s = .next t →
    exec i { s with inputs := l, ticks := n } = .next { t with inputs := l, ticks := n }

/-- The machine's invariant is kept by every step, from every state that has it: memory canonical, pc at most 0x1002
(10_state R24), return addresses at most 0x1000, a waiting core's pc fetchable, a diagnostic's address the pc. -/
def Obligations.EveryStepKeepsTheInvariant : Prop :=
  ∀ s t : State, s.Inv → step s = .next t → t.Inv

/-- The invariant holds after reset, for any named arguments, reset time and image that loads. -/
def Obligations.InvariantHoldsAfterReset : Prop :=
  State.reset.Inv ∧ ∀ (p : Config.Params) (image : Option (List Byte)) (t0 : Nat) (s : State),
    resetWith p image t0 = .ok s → s.Inv
end

