-- ==== Sys2Proof/Laws/Decode.lean ====
section
/-! SUPPORT. The fields of an encoded word, one lemma per field per format, the bytes of a word, a word
from its fields, and what the decoder can answer. -/

namespace Sys2Proof

variable (op x y n : BitVec 4) (kk : Byte) (nnn : Addr)

@[simp] theorem fieldOp_encodeA : fieldOp (encodeA op nnn) = op := by
  apply BitVec.eq_of_getLsbD_eq
  intro i hi
  simp only [fieldOp, encodeA, BitVec.getLsbD_extractLsb', BitVec.getLsbD_append]
  interval_cases i <;> simp

@[simp] theorem fieldNNN_encodeA : fieldNNN (encodeA op nnn) = nnn := by
  apply BitVec.eq_of_getLsbD_eq
  intro i hi
  simp only [fieldNNN, encodeA, BitVec.getLsbD_extractLsb', BitVec.getLsbD_append]
  interval_cases i <;> simp

@[simp] theorem fieldOp_encodeXK : fieldOp (encodeXK op x kk) = op := by
  apply BitVec.eq_of_getLsbD_eq
  intro i hi
  simp only [fieldOp, encodeXK, BitVec.getLsbD_extractLsb', BitVec.getLsbD_append]
  interval_cases i <;> simp

@[simp] theorem fieldX_encodeXK : fieldX (encodeXK op x kk) = x := by
  apply BitVec.eq_of_getLsbD_eq
  intro i hi
  simp only [fieldX, encodeXK, BitVec.getLsbD_extractLsb', BitVec.getLsbD_append]
  interval_cases i <;> simp

@[simp] theorem fieldKK_encodeXK : fieldKK (encodeXK op x kk) = kk := by
  apply BitVec.eq_of_getLsbD_eq
  intro i hi
  simp only [fieldKK, encodeXK, BitVec.getLsbD_extractLsb', BitVec.getLsbD_append]
  interval_cases i <;> simp

@[simp] theorem fieldOp_encodeXYN : fieldOp (encodeXYN op x y n) = op := by
  apply BitVec.eq_of_getLsbD_eq
  intro i hi
  simp only [fieldOp, encodeXYN, BitVec.getLsbD_extractLsb', BitVec.getLsbD_append]
  interval_cases i <;> simp

@[simp] theorem fieldX_encodeXYN : fieldX (encodeXYN op x y n) = x := by
  apply BitVec.eq_of_getLsbD_eq
  intro i hi
  simp only [fieldX, encodeXYN, BitVec.getLsbD_extractLsb', BitVec.getLsbD_append]
  interval_cases i <;> simp

@[simp] theorem fieldY_encodeXYN : fieldY (encodeXYN op x y n) = y := by
  apply BitVec.eq_of_getLsbD_eq
  intro i hi
  simp only [fieldY, encodeXYN, BitVec.getLsbD_extractLsb', BitVec.getLsbD_append]
  interval_cases i <;> simp

@[simp] theorem fieldN_encodeXYN : fieldN (encodeXYN op x y n) = n := by
  apply BitVec.eq_of_getLsbD_eq
  intro i hi
  simp only [fieldN, encodeXYN, BitVec.getLsbD_extractLsb', BitVec.getLsbD_append]
  interval_cases i <;> simp

/-- A word is its two bytes, the more significant first. -/
@[simp] theorem wordOfBytes_bytes (w : Word) : wordOfBytes (byteHi w) (byteLo w) = w := by
  apply BitVec.eq_of_getLsbD_eq
  intro i hi
  simp only [wordOfBytes, byteHi, byteLo, BitVec.getLsbD_append, BitVec.getLsbD_extractLsb']
  interval_cases i <;> simp

/-- A word is its op and its address field. -/
theorem fields_A (w : Word) : fieldOp w ++ fieldNNN w = w := by
  apply BitVec.eq_of_getLsbD_eq
  intro i hi
  simp only [fieldOp, fieldNNN, BitVec.getLsbD_append, BitVec.getLsbD_extractLsb']
  grind

/-- A word is its op, its x field and its low byte. -/
theorem fields_XK (w : Word) : fieldOp w ++ fieldX w ++ fieldKK w = w := by
  apply BitVec.eq_of_getLsbD_eq
  intro i hi
  simp only [fieldOp, fieldX, fieldKK, BitVec.getLsbD_append, BitVec.getLsbD_extractLsb']
  grind

/-- A word is its four nibbles. -/
theorem fields_XYN (w : Word) : fieldOp w ++ fieldX w ++ fieldY w ++ fieldN w = w := by
  apply BitVec.eq_of_getLsbD_eq
  intro i hi
  simp only [fieldOp, fieldX, fieldY, fieldN, BitVec.getLsbD_append, BitVec.getLsbD_extractLsb']
  grind

/-- A field that an opcode row's mask covers whole has the value the row's pattern gives it. -/
theorem extract_of_masked {w m p : Word} (h : w &&& m = p) (start len : Nat)
    (hm : m.extractLsb' start len = BitVec.allOnes len) : w.extractLsb' start len = p.extractLsb' start len := by
  subst h
  rw [BitVec.extractLsb'_and, hm, BitVec.and_allOnes]

/-- The answers the decoder has for a word: an instruction, or a decode failure that carries the word. -/
def DecodesOrRejects (w : Word) (r : Except DecodeReject Instr) : Prop :=
  (∃ i, r = .ok i) ∨ r = .error (.decodeFailure w)

theorem DecodesOrRejects.ite {c : Prop} [Decidable c] {w : Word} {a b : Except DecodeReject Instr}
    (ha : DecodesOrRejects w a) (hb : DecodesOrRejects w b) : DecodesOrRejects w (if c then a else b) := by
  split <;> assumption

/-- The decoder answers every word with an instruction or with a decode failure that carries the word. -/
theorem decodeWord_cases (w : Word) : DecodesOrRejects w (decodeWord w) := by
  unfold decodeWord decodeAlu decodeMisc
  dsimp only
  repeat' first
    | apply DecodesOrRejects.ite
    | exact .inl ⟨_, rfl⟩
    | exact .inr rfl

end Sys2Proof
end

