-- ==== Sys2Proof/Laws/Memory.lean ====
section
/-! SUPPORT. The laws of memory: a read after a write, and every operation keeps the canonical form. -/

namespace Sys2Proof.Machine

variable {font : Vector (Vector Byte 5) 16}

theorem Memory.read_put_same (m : Memory) (a : Nat) (b : Byte) :
    Memory.read font (Memory.put m a b) a = b := by
  induction m with
  | nil => simp [Memory.put, Memory.read]
  | cons e rest ih =>
    obtain ⟨k, c⟩ := e
    by_cases h1 : a < k
    · simp [Memory.put, Memory.read, h1]
    · by_cases h2 : a = k
      · simp [Memory.put, Memory.read, h2]
      · have h3 : ¬ k = a := fun h => h2 h.symm
        simp [Memory.put, Memory.read, h1, h2, h3, ih]

theorem Memory.read_put_other (m : Memory) {a a' : Nat} (b : Byte) (h : a' ≠ a) :
    Memory.read font (Memory.put m a b) a' = Memory.read font m a' := by
  induction m with
  | nil => simp [Memory.put, Memory.read, Ne.symm h]
  | cons e rest ih =>
    obtain ⟨k, c⟩ := e
    by_cases h1 : a < k
    · simp [Memory.put, Memory.read, h1, Ne.symm h]
    · by_cases h2 : a = k
      · subst h2
        simp [Memory.put, Memory.read, Ne.symm h]
      · simp [Memory.put, Memory.read, h1, h2, ih]

/-- Below the first listed address a canonical memory reads as unlisted. -/
theorem Memory.read_of_wfFrom (m : Memory) {lo a : Nat} (hw : Memory.wfFrom font lo m = true) (h : a < lo) :
    Memory.read font m a = Memory.unlisted font a := by
  induction m generalizing lo with
  | nil => rfl
  | cons e rest ih =>
    obtain ⟨k, c⟩ := e
    simp only [Memory.wfFrom, Bool.and_eq_true, decide_eq_true_eq] at hw
    have hk : ¬ k = a := by omega
    simp only [Memory.read, if_neg hk]
    exact ih hw.2 (by omega)

theorem Memory.read_drop_same (m : Memory) {lo : Nat} (a : Nat) (hw : Memory.wfFrom font lo m = true) :
    Memory.read font (Memory.drop m a) a = Memory.unlisted font a := by
  induction m generalizing lo with
  | nil => rfl
  | cons e rest ih =>
    obtain ⟨k, c⟩ := e
    simp only [Memory.wfFrom, Bool.and_eq_true, decide_eq_true_eq] at hw
    by_cases hk : k = a
    · simp only [Memory.drop, if_pos hk]
      exact Memory.read_of_wfFrom rest hw.2 (by omega)
    · simp only [Memory.drop, if_neg hk, Memory.read]
      exact ih hw.2

theorem Memory.read_drop_other (m : Memory) {a a' : Nat} (h : a' ≠ a) :
    Memory.read font (Memory.drop m a) a' = Memory.read font m a' := by
  induction m with
  | nil => rfl
  | cons e rest ih =>
    obtain ⟨k, c⟩ := e
    by_cases hk : k = a
    · subst hk
      simp [Memory.drop, Memory.read, Ne.symm h]
    · simp only [Memory.drop, if_neg hk, Memory.read, ih]

/-- A write reads back, at an address of memory. -/
theorem Memory.read_write_same (m : Memory) {a : Nat} (b : Byte) (hw : Memory.wf font m = true) (h : a ≤ addrMax) :
    Memory.read font (Memory.write font m a b) a = b := by
  unfold Memory.write
  rw [if_pos h]
  split
  · next hb => rw [hb]; exact Memory.read_drop_same m a hw
  · exact Memory.read_put_same m a b

/-- A write leaves every other address alone. -/
theorem Memory.read_write_other (m : Memory) {a a' : Nat} (b : Byte) (h : a' ≠ a) :
    Memory.read font (Memory.write font m a b) a' = Memory.read font m a' := by
  unfold Memory.write
  split
  · split
    · exact Memory.read_drop_other m h
    · exact Memory.read_put_other m b h
  · rfl

theorem Memory.wfFrom_mono (m : Memory) {lo lo' : Nat} (h : lo' ≤ lo) (hw : Memory.wfFrom font lo m = true) :
    Memory.wfFrom font lo' m = true := by
  cases m with
  | nil => rfl
  | cons e rest =>
    obtain ⟨k, c⟩ := e
    simp only [Memory.wfFrom, Bool.and_eq_true, decide_eq_true_eq] at hw ⊢
    exact ⟨⟨⟨by omega, hw.1.1.2⟩, hw.1.2⟩, hw.2⟩

theorem Memory.drop_wfFrom (m : Memory) {lo : Nat} (a : Nat) (hw : Memory.wfFrom font lo m = true) :
    Memory.wfFrom font lo (Memory.drop m a) = true := by
  induction m generalizing lo with
  | nil => rfl
  | cons e rest ih =>
    obtain ⟨k, c⟩ := e
    simp only [Memory.wfFrom, Bool.and_eq_true, decide_eq_true_eq] at hw
    by_cases hk : k = a
    · simp only [Memory.drop, if_pos hk]
      exact Memory.wfFrom_mono rest (by omega) hw.2
    · simp only [Memory.drop, if_neg hk, Memory.wfFrom, Bool.and_eq_true, decide_eq_true_eq]
      exact ⟨hw.1, ih hw.2⟩

theorem Memory.put_wfFrom (m : Memory) {lo a : Nat} {b : Byte} (hw : Memory.wfFrom font lo m = true) (hlo : lo ≤ a)
    (ha : a ≤ addrMax) (hb : b ≠ Memory.unlisted font a) : Memory.wfFrom font lo (Memory.put m a b) = true := by
  induction m generalizing lo with
  | nil => simp [Memory.put, Memory.wfFrom, hlo, ha, hb]
  | cons e rest ih =>
    obtain ⟨k, c⟩ := e
    simp only [Memory.wfFrom, Bool.and_eq_true, decide_eq_true_eq] at hw
    by_cases h1 : a < k
    · simp only [Memory.put, if_pos h1, Memory.wfFrom, Bool.and_eq_true, decide_eq_true_eq]
      exact ⟨⟨⟨hlo, ha⟩, hb⟩, ⟨⟨by omega, hw.1.1.2⟩, hw.1.2⟩, hw.2⟩
    · by_cases h2 : a = k
      · subst h2
        simp only [Memory.put, lt_irrefl, if_false, if_true, Memory.wfFrom, Bool.and_eq_true, decide_eq_true_eq]
        exact ⟨⟨⟨hlo, ha⟩, hb⟩, hw.2⟩
      · simp only [Memory.put, if_neg h1, if_neg h2, Memory.wfFrom, Bool.and_eq_true, decide_eq_true_eq]
        exact ⟨hw.1, ih hw.2 (by omega)⟩

/-- A write keeps the canonical form. -/
theorem Memory.write_wf (m : Memory) (a : Nat) (b : Byte) (hw : Memory.wf font m = true) :
    Memory.wf font (Memory.write font m a b) = true := by
  unfold Memory.write
  split
  · next ha =>
    split
    · exact Memory.drop_wfFrom m a hw
    · next hb => exact Memory.put_wfFrom m hw (Nat.zero_le a) ha hb
  · exact hw

/-- Two canonical memories that read alike everywhere are equal data. -/
theorem Memory.ext_of_wfFrom (m m' : Memory) {lo : Nat} (hw : Memory.wfFrom font lo m = true)
    (hw' : Memory.wfFrom font lo m' = true) (h : ∀ a, Memory.read font m a = Memory.read font m' a) : m = m' := by
  induction m generalizing m' lo with
  | nil =>
    cases m' with
    | nil => rfl
    | cons e' rest' =>
      obtain ⟨k', c'⟩ := e'
      simp only [Memory.wfFrom, Bool.and_eq_true, decide_eq_true_eq] at hw'
      have := h k'
      simp only [Memory.read, if_true] at this
      exact absurd this.symm hw'.1.2
  | cons e rest ih =>
    obtain ⟨k, c⟩ := e
    cases m' with
    | nil =>
      simp only [Memory.wfFrom, Bool.and_eq_true, decide_eq_true_eq] at hw
      have := h k
      simp only [Memory.read, if_true] at this
      exact absurd this hw.1.2
    | cons e' rest' =>
      obtain ⟨k', c'⟩ := e'
      simp only [Memory.wfFrom, Bool.and_eq_true, decide_eq_true_eq] at hw hw'
      have hkk : k = k' := by
        rcases Nat.lt_trichotomy k k' with hl | he | hg
        · have := h k
          have hn : ¬ k' = k := by omega
          simp only [Memory.read, if_true, if_neg hn] at this
          rw [Memory.read_of_wfFrom rest' hw'.2 (by omega)] at this
          exact absurd this hw.1.2
        · exact he
        · have := h k'
          have hn : ¬ k = k' := by omega
          simp only [Memory.read, if_true, if_neg hn] at this
          rw [Memory.read_of_wfFrom rest hw.2 (by omega)] at this
          exact absurd this.symm hw'.1.2
      subst hkk
      have hc : c = c' := by simpa [Memory.read] using h k
      subst hc
      congr 1
      refine ih rest' hw.2 hw'.2 fun a => ?_
      by_cases hka : k = a
      · rw [Memory.read_of_wfFrom rest hw.2 (by omega), Memory.read_of_wfFrom rest' hw'.2 (by omega)]
      · simpa [Memory.read, hka] using h a

end Sys2Proof.Machine
end

