-- ==== Sys2Proof/Laws/State.lean ====
section
/-! SUPPORT. The fields of every named update of the state, one lemma per field per update. -/

namespace Sys2Proof.Machine

open Sys2Proof

variable (s : State)

@[simp] theorem State.setReg_v (x : RegIdx) (b : Byte) : (s.setReg x b).v = s.v.set x.toNat b x.isLt := rfl
@[simp] theorem State.setReg_pc (x : RegIdx) (b : Byte) : (s.setReg x b).pc = s.pc := rfl
@[simp] theorem State.setReg_index (x : RegIdx) (b : Byte) : (s.setReg x b).index = s.index := rfl
@[simp] theorem State.setReg_stack (x : RegIdx) (b : Byte) : (s.setReg x b).stack = s.stack := rfl
@[simp] theorem State.setReg_sp (x : RegIdx) (b : Byte) : (s.setReg x b).sp = s.sp := rfl
@[simp] theorem State.setReg_dt (x : RegIdx) (b : Byte) : (s.setReg x b).dt = s.dt := rfl
@[simp] theorem State.setReg_st (x : RegIdx) (b : Byte) : (s.setReg x b).st = s.st := rfl
@[simp] theorem State.setReg_last (x : RegIdx) (b : Byte) : (s.setReg x b).last = s.last := rfl
@[simp] theorem State.setReg_mem (x : RegIdx) (b : Byte) : (s.setReg x b).mem = s.mem := rfl
@[simp] theorem State.setReg_fb (x : RegIdx) (b : Byte) : (s.setReg x b).fb = s.fb := rfl
@[simp] theorem State.setReg_dirty (x : RegIdx) (b : Byte) : (s.setReg x b).dirty = s.dirty := rfl
@[simp] theorem State.setReg_run (x : RegIdx) (b : Byte) : (s.setReg x b).run = s.run := rfl
@[simp] theorem State.setReg_params (x : RegIdx) (b : Byte) : (s.setReg x b).params = s.params := rfl
@[simp] theorem State.setReg_inputs (x : RegIdx) (b : Byte) : (s.setReg x b).inputs = s.inputs := rfl
@[simp] theorem State.setReg_ticks (x : RegIdx) (b : Byte) : (s.setReg x b).ticks = s.ticks := rfl
@[simp] theorem State.setReg_out (x : RegIdx) (b : Byte) : (s.setReg x b).out = s.out := rfl

@[simp] theorem State.setPc_v (t : Word) : (s.setPc t).v = s.v := rfl
@[simp] theorem State.setPc_pc (t : Word) : (s.setPc t).pc = t := rfl
@[simp] theorem State.setPc_index (t : Word) : (s.setPc t).index = s.index := rfl
@[simp] theorem State.setPc_stack (t : Word) : (s.setPc t).stack = s.stack := rfl
@[simp] theorem State.setPc_sp (t : Word) : (s.setPc t).sp = s.sp := rfl
@[simp] theorem State.setPc_dt (t : Word) : (s.setPc t).dt = s.dt := rfl
@[simp] theorem State.setPc_st (t : Word) : (s.setPc t).st = s.st := rfl
@[simp] theorem State.setPc_last (t : Word) : (s.setPc t).last = s.last := rfl
@[simp] theorem State.setPc_mem (t : Word) : (s.setPc t).mem = s.mem := rfl
@[simp] theorem State.setPc_fb (t : Word) : (s.setPc t).fb = s.fb := rfl
@[simp] theorem State.setPc_dirty (t : Word) : (s.setPc t).dirty = s.dirty := rfl
@[simp] theorem State.setPc_run (t : Word) : (s.setPc t).run = s.run := rfl
@[simp] theorem State.setPc_params (t : Word) : (s.setPc t).params = s.params := rfl
@[simp] theorem State.setPc_inputs (t : Word) : (s.setPc t).inputs = s.inputs := rfl
@[simp] theorem State.setPc_ticks (t : Word) : (s.setPc t).ticks = s.ticks := rfl
@[simp] theorem State.setPc_out (t : Word) : (s.setPc t).out = s.out := rfl

@[simp] theorem State.advance_v : (s.advance).v = s.v := rfl
@[simp] theorem State.advance_pc : (s.advance).pc = s.pc + 2 := rfl
@[simp] theorem State.advance_index : (s.advance).index = s.index := rfl
@[simp] theorem State.advance_stack : (s.advance).stack = s.stack := rfl
@[simp] theorem State.advance_sp : (s.advance).sp = s.sp := rfl
@[simp] theorem State.advance_dt : (s.advance).dt = s.dt := rfl
@[simp] theorem State.advance_st : (s.advance).st = s.st := rfl
@[simp] theorem State.advance_last : (s.advance).last = s.last := rfl
@[simp] theorem State.advance_mem : (s.advance).mem = s.mem := rfl
@[simp] theorem State.advance_fb : (s.advance).fb = s.fb := rfl
@[simp] theorem State.advance_dirty : (s.advance).dirty = s.dirty := rfl
@[simp] theorem State.advance_run : (s.advance).run = s.run := rfl
@[simp] theorem State.advance_params : (s.advance).params = s.params := rfl
@[simp] theorem State.advance_inputs : (s.advance).inputs = s.inputs := rfl
@[simp] theorem State.advance_ticks : (s.advance).ticks = s.ticks := rfl
@[simp] theorem State.advance_out : (s.advance).out = s.out := rfl

@[simp] theorem State.setIndex_v (a : Word) : (s.setIndex a).v = s.v := rfl
@[simp] theorem State.setIndex_pc (a : Word) : (s.setIndex a).pc = s.pc := rfl
@[simp] theorem State.setIndex_index (a : Word) : (s.setIndex a).index = a := rfl
@[simp] theorem State.setIndex_stack (a : Word) : (s.setIndex a).stack = s.stack := rfl
@[simp] theorem State.setIndex_sp (a : Word) : (s.setIndex a).sp = s.sp := rfl
@[simp] theorem State.setIndex_dt (a : Word) : (s.setIndex a).dt = s.dt := rfl
@[simp] theorem State.setIndex_st (a : Word) : (s.setIndex a).st = s.st := rfl
@[simp] theorem State.setIndex_last (a : Word) : (s.setIndex a).last = s.last := rfl
@[simp] theorem State.setIndex_mem (a : Word) : (s.setIndex a).mem = s.mem := rfl
@[simp] theorem State.setIndex_fb (a : Word) : (s.setIndex a).fb = s.fb := rfl
@[simp] theorem State.setIndex_dirty (a : Word) : (s.setIndex a).dirty = s.dirty := rfl
@[simp] theorem State.setIndex_run (a : Word) : (s.setIndex a).run = s.run := rfl
@[simp] theorem State.setIndex_params (a : Word) : (s.setIndex a).params = s.params := rfl
@[simp] theorem State.setIndex_inputs (a : Word) : (s.setIndex a).inputs = s.inputs := rfl
@[simp] theorem State.setIndex_ticks (a : Word) : (s.setIndex a).ticks = s.ticks := rfl
@[simp] theorem State.setIndex_out (a : Word) : (s.setIndex a).out = s.out := rfl

@[simp] theorem State.setDt_v (b : Byte) : (s.setDt b).v = s.v := rfl
@[simp] theorem State.setDt_pc (b : Byte) : (s.setDt b).pc = s.pc := rfl
@[simp] theorem State.setDt_index (b : Byte) : (s.setDt b).index = s.index := rfl
@[simp] theorem State.setDt_stack (b : Byte) : (s.setDt b).stack = s.stack := rfl
@[simp] theorem State.setDt_sp (b : Byte) : (s.setDt b).sp = s.sp := rfl
@[simp] theorem State.setDt_dt (b : Byte) : (s.setDt b).dt = b := rfl
@[simp] theorem State.setDt_st (b : Byte) : (s.setDt b).st = s.st := rfl
@[simp] theorem State.setDt_last (b : Byte) : (s.setDt b).last = s.last := rfl
@[simp] theorem State.setDt_mem (b : Byte) : (s.setDt b).mem = s.mem := rfl
@[simp] theorem State.setDt_fb (b : Byte) : (s.setDt b).fb = s.fb := rfl
@[simp] theorem State.setDt_dirty (b : Byte) : (s.setDt b).dirty = s.dirty := rfl
@[simp] theorem State.setDt_run (b : Byte) : (s.setDt b).run = s.run := rfl
@[simp] theorem State.setDt_params (b : Byte) : (s.setDt b).params = s.params := rfl
@[simp] theorem State.setDt_inputs (b : Byte) : (s.setDt b).inputs = s.inputs := rfl
@[simp] theorem State.setDt_ticks (b : Byte) : (s.setDt b).ticks = s.ticks := rfl
@[simp] theorem State.setDt_out (b : Byte) : (s.setDt b).out = s.out := rfl

@[simp] theorem State.setSt_v (b : Byte) : (s.setSt b).v = s.v := rfl
@[simp] theorem State.setSt_pc (b : Byte) : (s.setSt b).pc = s.pc := rfl
@[simp] theorem State.setSt_index (b : Byte) : (s.setSt b).index = s.index := rfl
@[simp] theorem State.setSt_stack (b : Byte) : (s.setSt b).stack = s.stack := rfl
@[simp] theorem State.setSt_sp (b : Byte) : (s.setSt b).sp = s.sp := rfl
@[simp] theorem State.setSt_dt (b : Byte) : (s.setSt b).dt = s.dt := rfl
@[simp] theorem State.setSt_st (b : Byte) : (s.setSt b).st = b := rfl
@[simp] theorem State.setSt_last (b : Byte) : (s.setSt b).last = s.last := rfl
@[simp] theorem State.setSt_mem (b : Byte) : (s.setSt b).mem = s.mem := rfl
@[simp] theorem State.setSt_fb (b : Byte) : (s.setSt b).fb = s.fb := rfl
@[simp] theorem State.setSt_dirty (b : Byte) : (s.setSt b).dirty = s.dirty := rfl
@[simp] theorem State.setSt_run (b : Byte) : (s.setSt b).run = s.run := rfl
@[simp] theorem State.setSt_params (b : Byte) : (s.setSt b).params = s.params := rfl
@[simp] theorem State.setSt_inputs (b : Byte) : (s.setSt b).inputs = s.inputs := rfl
@[simp] theorem State.setSt_ticks (b : Byte) : (s.setSt b).ticks = s.ticks := rfl
@[simp] theorem State.setSt_out (b : Byte) : (s.setSt b).out = s.out := rfl

@[simp] theorem State.setRun_v (r : Run) : (s.setRun r).v = s.v := rfl
@[simp] theorem State.setRun_pc (r : Run) : (s.setRun r).pc = s.pc := rfl
@[simp] theorem State.setRun_index (r : Run) : (s.setRun r).index = s.index := rfl
@[simp] theorem State.setRun_stack (r : Run) : (s.setRun r).stack = s.stack := rfl
@[simp] theorem State.setRun_sp (r : Run) : (s.setRun r).sp = s.sp := rfl
@[simp] theorem State.setRun_dt (r : Run) : (s.setRun r).dt = s.dt := rfl
@[simp] theorem State.setRun_st (r : Run) : (s.setRun r).st = s.st := rfl
@[simp] theorem State.setRun_last (r : Run) : (s.setRun r).last = s.last := rfl
@[simp] theorem State.setRun_mem (r : Run) : (s.setRun r).mem = s.mem := rfl
@[simp] theorem State.setRun_fb (r : Run) : (s.setRun r).fb = s.fb := rfl
@[simp] theorem State.setRun_dirty (r : Run) : (s.setRun r).dirty = s.dirty := rfl
@[simp] theorem State.setRun_run (r : Run) : (s.setRun r).run = r := rfl
@[simp] theorem State.setRun_params (r : Run) : (s.setRun r).params = s.params := rfl
@[simp] theorem State.setRun_inputs (r : Run) : (s.setRun r).inputs = s.inputs := rfl
@[simp] theorem State.setRun_ticks (r : Run) : (s.setRun r).ticks = s.ticks := rfl
@[simp] theorem State.setRun_out (r : Run) : (s.setRun r).out = s.out := rfl

@[simp] theorem State.setFb_v (f : Framebuffer) : (s.setFb f).v = s.v := rfl
@[simp] theorem State.setFb_pc (f : Framebuffer) : (s.setFb f).pc = s.pc := rfl
@[simp] theorem State.setFb_index (f : Framebuffer) : (s.setFb f).index = s.index := rfl
@[simp] theorem State.setFb_stack (f : Framebuffer) : (s.setFb f).stack = s.stack := rfl
@[simp] theorem State.setFb_sp (f : Framebuffer) : (s.setFb f).sp = s.sp := rfl
@[simp] theorem State.setFb_dt (f : Framebuffer) : (s.setFb f).dt = s.dt := rfl
@[simp] theorem State.setFb_st (f : Framebuffer) : (s.setFb f).st = s.st := rfl
@[simp] theorem State.setFb_last (f : Framebuffer) : (s.setFb f).last = s.last := rfl
@[simp] theorem State.setFb_mem (f : Framebuffer) : (s.setFb f).mem = s.mem := rfl
@[simp] theorem State.setFb_fb (f : Framebuffer) : (s.setFb f).fb = f := rfl
@[simp] theorem State.setFb_dirty (f : Framebuffer) : (s.setFb f).dirty = s.dirty := rfl
@[simp] theorem State.setFb_run (f : Framebuffer) : (s.setFb f).run = s.run := rfl
@[simp] theorem State.setFb_params (f : Framebuffer) : (s.setFb f).params = s.params := rfl
@[simp] theorem State.setFb_inputs (f : Framebuffer) : (s.setFb f).inputs = s.inputs := rfl
@[simp] theorem State.setFb_ticks (f : Framebuffer) : (s.setFb f).ticks = s.ticks := rfl
@[simp] theorem State.setFb_out (f : Framebuffer) : (s.setFb f).out = s.out := rfl

@[simp] theorem State.setDirty_v (b : Bool) : (s.setDirty b).v = s.v := rfl
@[simp] theorem State.setDirty_pc (b : Bool) : (s.setDirty b).pc = s.pc := rfl
@[simp] theorem State.setDirty_index (b : Bool) : (s.setDirty b).index = s.index := rfl
@[simp] theorem State.setDirty_stack (b : Bool) : (s.setDirty b).stack = s.stack := rfl
@[simp] theorem State.setDirty_sp (b : Bool) : (s.setDirty b).sp = s.sp := rfl
@[simp] theorem State.setDirty_dt (b : Bool) : (s.setDirty b).dt = s.dt := rfl
@[simp] theorem State.setDirty_st (b : Bool) : (s.setDirty b).st = s.st := rfl
@[simp] theorem State.setDirty_last (b : Bool) : (s.setDirty b).last = s.last := rfl
@[simp] theorem State.setDirty_mem (b : Bool) : (s.setDirty b).mem = s.mem := rfl
@[simp] theorem State.setDirty_fb (b : Bool) : (s.setDirty b).fb = s.fb := rfl
@[simp] theorem State.setDirty_dirty (b : Bool) : (s.setDirty b).dirty = b := rfl
@[simp] theorem State.setDirty_run (b : Bool) : (s.setDirty b).run = s.run := rfl
@[simp] theorem State.setDirty_params (b : Bool) : (s.setDirty b).params = s.params := rfl
@[simp] theorem State.setDirty_inputs (b : Bool) : (s.setDirty b).inputs = s.inputs := rfl
@[simp] theorem State.setDirty_ticks (b : Bool) : (s.setDirty b).ticks = s.ticks := rfl
@[simp] theorem State.setDirty_out (b : Bool) : (s.setDirty b).out = s.out := rfl

@[simp] theorem State.writeByte_v (a : Nat) (b : Byte) : (s.writeByte a b).v = s.v := rfl
@[simp] theorem State.writeByte_pc (a : Nat) (b : Byte) : (s.writeByte a b).pc = s.pc := rfl
@[simp] theorem State.writeByte_index (a : Nat) (b : Byte) : (s.writeByte a b).index = s.index := rfl
@[simp] theorem State.writeByte_stack (a : Nat) (b : Byte) : (s.writeByte a b).stack = s.stack := rfl
@[simp] theorem State.writeByte_sp (a : Nat) (b : Byte) : (s.writeByte a b).sp = s.sp := rfl
@[simp] theorem State.writeByte_dt (a : Nat) (b : Byte) : (s.writeByte a b).dt = s.dt := rfl
@[simp] theorem State.writeByte_st (a : Nat) (b : Byte) : (s.writeByte a b).st = s.st := rfl
@[simp] theorem State.writeByte_last (a : Nat) (b : Byte) : (s.writeByte a b).last = s.last := rfl
@[simp] theorem State.writeByte_mem (a : Nat) (b : Byte) : (s.writeByte a b).mem = Memory.write s.params.font s.mem a b := rfl
@[simp] theorem State.writeByte_fb (a : Nat) (b : Byte) : (s.writeByte a b).fb = s.fb := rfl
@[simp] theorem State.writeByte_dirty (a : Nat) (b : Byte) : (s.writeByte a b).dirty = s.dirty := rfl
@[simp] theorem State.writeByte_run (a : Nat) (b : Byte) : (s.writeByte a b).run = s.run := rfl
@[simp] theorem State.writeByte_params (a : Nat) (b : Byte) : (s.writeByte a b).params = s.params := rfl
@[simp] theorem State.writeByte_inputs (a : Nat) (b : Byte) : (s.writeByte a b).inputs = s.inputs := rfl
@[simp] theorem State.writeByte_ticks (a : Nat) (b : Byte) : (s.writeByte a b).ticks = s.ticks := rfl
@[simp] theorem State.writeByte_out (a : Nat) (b : Byte) : (s.writeByte a b).out = s.out := rfl

@[simp] theorem State.loadRegs_pc (x : RegIdx) : (s.loadRegs x).pc = s.pc := rfl
@[simp] theorem State.loadRegs_index (x : RegIdx) : (s.loadRegs x).index = s.index := rfl
@[simp] theorem State.loadRegs_stack (x : RegIdx) : (s.loadRegs x).stack = s.stack := rfl
@[simp] theorem State.loadRegs_sp (x : RegIdx) : (s.loadRegs x).sp = s.sp := rfl
@[simp] theorem State.loadRegs_dt (x : RegIdx) : (s.loadRegs x).dt = s.dt := rfl
@[simp] theorem State.loadRegs_st (x : RegIdx) : (s.loadRegs x).st = s.st := rfl
@[simp] theorem State.loadRegs_last (x : RegIdx) : (s.loadRegs x).last = s.last := rfl
@[simp] theorem State.loadRegs_mem (x : RegIdx) : (s.loadRegs x).mem = s.mem := rfl
@[simp] theorem State.loadRegs_fb (x : RegIdx) : (s.loadRegs x).fb = s.fb := rfl
@[simp] theorem State.loadRegs_dirty (x : RegIdx) : (s.loadRegs x).dirty = s.dirty := rfl
@[simp] theorem State.loadRegs_run (x : RegIdx) : (s.loadRegs x).run = s.run := rfl
@[simp] theorem State.loadRegs_params (x : RegIdx) : (s.loadRegs x).params = s.params := rfl
@[simp] theorem State.loadRegs_inputs (x : RegIdx) : (s.loadRegs x).inputs = s.inputs := rfl
@[simp] theorem State.loadRegs_ticks (x : RegIdx) : (s.loadRegs x).ticks = s.ticks := rfl
@[simp] theorem State.loadRegs_out (x : RegIdx) : (s.loadRegs x).out = s.out := rfl

@[simp] theorem timerUpdate_v (now : Nat) : (timerUpdate now s).v = s.v := rfl
@[simp] theorem timerUpdate_pc (now : Nat) : (timerUpdate now s).pc = s.pc := rfl
@[simp] theorem timerUpdate_index (now : Nat) : (timerUpdate now s).index = s.index := rfl
@[simp] theorem timerUpdate_stack (now : Nat) : (timerUpdate now s).stack = s.stack := rfl
@[simp] theorem timerUpdate_sp (now : Nat) : (timerUpdate now s).sp = s.sp := rfl
@[simp] theorem timerUpdate_dt (now : Nat) : (timerUpdate now s).dt = countDown s.dt (elapsedPeriods s.params s.last now) := rfl
@[simp] theorem timerUpdate_st (now : Nat) : (timerUpdate now s).st = countDown s.st (elapsedPeriods s.params s.last now) := rfl
@[simp] theorem timerUpdate_last (now : Nat) : (timerUpdate now s).last = s.last + elapsedPeriods s.params s.last now * periodUnits s.params := rfl
@[simp] theorem timerUpdate_mem (now : Nat) : (timerUpdate now s).mem = s.mem := rfl
@[simp] theorem timerUpdate_fb (now : Nat) : (timerUpdate now s).fb = s.fb := rfl
@[simp] theorem timerUpdate_dirty (now : Nat) : (timerUpdate now s).dirty = s.dirty := rfl
@[simp] theorem timerUpdate_run (now : Nat) : (timerUpdate now s).run = s.run := rfl
@[simp] theorem timerUpdate_params (now : Nat) : (timerUpdate now s).params = s.params := rfl
@[simp] theorem timerUpdate_inputs (now : Nat) : (timerUpdate now s).inputs = s.inputs := rfl
@[simp] theorem timerUpdate_ticks (now : Nat) : (timerUpdate now s).ticks = s.ticks := rfl
@[simp] theorem timerUpdate_out (now : Nat) : (timerUpdate now s).out = s.out := rfl

@[simp] theorem report_v : (report s).v = s.v := rfl
@[simp] theorem report_pc : (report s).pc = s.pc := rfl
@[simp] theorem report_index : (report s).index = s.index := rfl
@[simp] theorem report_stack : (report s).stack = s.stack := rfl
@[simp] theorem report_sp : (report s).sp = s.sp := rfl
@[simp] theorem report_dt : (report s).dt = s.dt := rfl
@[simp] theorem report_st : (report s).st = s.st := rfl
@[simp] theorem report_last : (report s).last = s.last := rfl
@[simp] theorem report_mem : (report s).mem = s.mem := rfl
@[simp] theorem report_fb : (report s).fb = s.fb := rfl
@[simp] theorem report_dirty : (report s).dirty = false := rfl
@[simp] theorem report_run : (report s).run = s.run := rfl
@[simp] theorem report_params : (report s).params = s.params := rfl
@[simp] theorem report_inputs : (report s).inputs = s.inputs := rfl
@[simp] theorem report_ticks : (report s).ticks = s.ticks := rfl

@[simp] theorem nextInputs_v : (nextInputs s).v = s.v := rfl
@[simp] theorem nextInputs_pc : (nextInputs s).pc = s.pc := rfl
@[simp] theorem nextInputs_index : (nextInputs s).index = s.index := rfl
@[simp] theorem nextInputs_stack : (nextInputs s).stack = s.stack := rfl
@[simp] theorem nextInputs_sp : (nextInputs s).sp = s.sp := rfl
@[simp] theorem nextInputs_dt : (nextInputs s).dt = s.dt := rfl
@[simp] theorem nextInputs_st : (nextInputs s).st = s.st := rfl
@[simp] theorem nextInputs_last : (nextInputs s).last = s.last := rfl
@[simp] theorem nextInputs_mem : (nextInputs s).mem = s.mem := rfl
@[simp] theorem nextInputs_fb : (nextInputs s).fb = s.fb := rfl
@[simp] theorem nextInputs_dirty : (nextInputs s).dirty = s.dirty := rfl
@[simp] theorem nextInputs_run : (nextInputs s).run = s.run := rfl
@[simp] theorem nextInputs_params : (nextInputs s).params = s.params := rfl
@[simp] theorem nextInputs_inputs : (nextInputs s).inputs = s.inputs.tail := rfl
@[simp] theorem nextInputs_ticks : (nextInputs s).ticks = s.ticks + 1 := rfl
@[simp] theorem nextInputs_out : (nextInputs s).out = s.out := rfl

end Sys2Proof.Machine
end

