-- ==== Sys2Proof/Laws/Ops.lean ====
section
/-! SUPPORT. What each shared operation can do, one lemma per operation: registers, block accesses, the stack, the
skip, a fault, the flag write, the timers. -/

namespace Sys2Proof.Machine

open Sys2Proof

variable (s : State)

@[simp] theorem State.reg_setReg_same (x : RegIdx) (b : Byte) : (s.setReg x b).reg x = b := by
  simp [State.reg, State.setReg]

theorem State.reg_setReg_other {x y : RegIdx} (b : Byte) (h : y ≠ x) : (s.setReg x b).reg y = s.reg y := by
  have hn : x.toNat ≠ y.toNat := fun e => h (BitVec.eq_of_toNat_eq e.symm)
  simp [State.reg, State.setReg, Vector.getElem_set_ne _ _ hn]

/-- The registers of two states with the same register file agree. -/
theorem State.reg_congr {s t : State} (h : s.v = t.v) (x : RegIdx) : s.reg x = t.reg x := by
  simp [State.reg, h]

/-- The general form: the one register written, every other as before. -/
theorem State.reg_setReg (x y : RegIdx) (b : Byte) : (s.setReg x b).reg y = if y = x then b else s.reg y := by
  by_cases h : y = x
  · subst h; simp
  · simp [h, State.reg_setReg_other s b h]

/-- `WriteRF` on any register: the destination and VF, in the order the parameter gives. -/
theorem State.reg_writeRF (x y : RegIdx) (r f : Byte) : (s.writeRF x r f).reg y =
    match s.params.vfDest with
    | .flagWins => if y = vf then f else if y = x then r else s.reg y
    | .resultWins => if y = x then r else if y = vf then f else s.reg y := by
  cases h : s.params.vfDest <;> simp only [State.writeRF, h, State.reg_setReg]

/-- `WriteRF` changes the register file only. -/
theorem State.writeRF_eq (x : RegIdx) (r f : Byte) :
    s.writeRF x r f = { s with v := (s.writeRF x r f).v } := by
  unfold State.writeRF
  split <;> rfl

@[simp] theorem State.writeRF_mem (x : RegIdx) (r f : Byte) : (s.writeRF x r f).mem = s.mem := by
  rw [State.writeRF_eq]

@[simp] theorem State.writeRF_params (x : RegIdx) (r f : Byte) : (s.writeRF x r f).params = s.params := by
  rw [State.writeRF_eq]

@[simp] theorem State.writeRF_run (x : RegIdx) (r f : Byte) : (s.writeRF x r f).run = s.run := by
  rw [State.writeRF_eq]

@[simp] theorem State.writeRF_pc (x : RegIdx) (r f : Byte) : (s.writeRF x r f).pc = s.pc := by
  rw [State.writeRF_eq]

@[simp] theorem State.writeRF_index (x : RegIdx) (r f : Byte) : (s.writeRF x r f).index = s.index := by
  rw [State.writeRF_eq]

@[simp] theorem State.writeRF_stack (x : RegIdx) (r f : Byte) : (s.writeRF x r f).stack = s.stack := by
  rw [State.writeRF_eq]

@[simp] theorem State.writeRF_sp (x : RegIdx) (r f : Byte) : (s.writeRF x r f).sp = s.sp := by
  rw [State.writeRF_eq]

@[simp] theorem State.writeRF_dt (x : RegIdx) (r f : Byte) : (s.writeRF x r f).dt = s.dt := by
  rw [State.writeRF_eq]

@[simp] theorem State.writeRF_st (x : RegIdx) (r f : Byte) : (s.writeRF x r f).st = s.st := by
  rw [State.writeRF_eq]

@[simp] theorem State.writeRF_last (x : RegIdx) (r f : Byte) : (s.writeRF x r f).last = s.last := by
  rw [State.writeRF_eq]

@[simp] theorem State.writeRF_fb (x : RegIdx) (r f : Byte) : (s.writeRF x r f).fb = s.fb := by
  rw [State.writeRF_eq]

@[simp] theorem State.writeRF_dirty (x : RegIdx) (r f : Byte) : (s.writeRF x r f).dirty = s.dirty := by
  rw [State.writeRF_eq]

@[simp] theorem State.writeRF_inputs (x : RegIdx) (r f : Byte) : (s.writeRF x r f).inputs = s.inputs := by
  rw [State.writeRF_eq]

@[simp] theorem State.writeRF_ticks (x : RegIdx) (r f : Byte) : (s.writeRF x r f).ticks = s.ticks := by
  rw [State.writeRF_eq]

@[simp] theorem State.writeRF_out (x : RegIdx) (r f : Byte) : (s.writeRF x r f).out = s.out := by
  rw [State.writeRF_eq]

/-- A block store changes memory only. -/
theorem State.writeBytes_eq (a : Nat) (bs : List Byte) :
    s.writeBytes a bs = { s with mem := (s.writeBytes a bs).mem } := by
  induction bs generalizing s a with
  | nil => rfl
  | cons b rest ih =>
    rw [State.writeBytes, ih]
    rfl

@[simp] theorem State.writeBytes_v (a : Nat) (bs : List Byte) : (s.writeBytes a bs).v = s.v := by
  rw [State.writeBytes_eq]

@[simp] theorem State.writeBytes_pc (a : Nat) (bs : List Byte) : (s.writeBytes a bs).pc = s.pc := by
  rw [State.writeBytes_eq]

@[simp] theorem State.writeBytes_index (a : Nat) (bs : List Byte) : (s.writeBytes a bs).index = s.index := by
  rw [State.writeBytes_eq]

@[simp] theorem State.writeBytes_stack (a : Nat) (bs : List Byte) : (s.writeBytes a bs).stack = s.stack := by
  rw [State.writeBytes_eq]

@[simp] theorem State.writeBytes_sp (a : Nat) (bs : List Byte) : (s.writeBytes a bs).sp = s.sp := by
  rw [State.writeBytes_eq]

@[simp] theorem State.writeBytes_dt (a : Nat) (bs : List Byte) : (s.writeBytes a bs).dt = s.dt := by
  rw [State.writeBytes_eq]

@[simp] theorem State.writeBytes_st (a : Nat) (bs : List Byte) : (s.writeBytes a bs).st = s.st := by
  rw [State.writeBytes_eq]

@[simp] theorem State.writeBytes_last (a : Nat) (bs : List Byte) : (s.writeBytes a bs).last = s.last := by
  rw [State.writeBytes_eq]

@[simp] theorem State.writeBytes_fb (a : Nat) (bs : List Byte) : (s.writeBytes a bs).fb = s.fb := by
  rw [State.writeBytes_eq]

@[simp] theorem State.writeBytes_dirty (a : Nat) (bs : List Byte) : (s.writeBytes a bs).dirty = s.dirty := by
  rw [State.writeBytes_eq]

@[simp] theorem State.writeBytes_run (a : Nat) (bs : List Byte) : (s.writeBytes a bs).run = s.run := by
  rw [State.writeBytes_eq]

@[simp] theorem State.writeBytes_params (a : Nat) (bs : List Byte) : (s.writeBytes a bs).params = s.params := by
  rw [State.writeBytes_eq]

@[simp] theorem State.writeBytes_inputs (a : Nat) (bs : List Byte) : (s.writeBytes a bs).inputs = s.inputs := by
  rw [State.writeBytes_eq]

@[simp] theorem State.writeBytes_ticks (a : Nat) (bs : List Byte) : (s.writeBytes a bs).ticks = s.ticks := by
  rw [State.writeBytes_eq]

@[simp] theorem State.writeBytes_out (a : Nat) (bs : List Byte) : (s.writeBytes a bs).out = s.out := by
  rw [State.writeBytes_eq]

/-- A block store leaves every address outside it alone. -/
theorem State.readByte_writeBytes_other (a a' : Nat) (bs : List Byte) (h : a' < a ∨ a + bs.length ≤ a') :
    (s.writeBytes a bs).readByte a' = s.readByte a' := by
  induction bs generalizing s a with
  | nil => rfl
  | cons b rest ih =>
    rw [State.writeBytes, ih (s.writeByte a b) (a + 1) (by simp at h; omega)]
    exact Memory.read_write_other s.mem b (by simp at h; omega)

/-- A block store keeps memory canonical. -/
theorem State.writeBytes_wf (a : Nat) (bs : List Byte) (hw : Memory.wf s.params.font s.mem = true) :
    Memory.wf s.params.font (s.writeBytes a bs).mem = true := by
  induction bs generalizing s a with
  | nil => exact hw
  | cons b rest ih => exact ih (s.writeByte a b) (a + 1) (Memory.write_wf s.mem a b hw)

/-- A block store inside memory reads back. -/
theorem State.readByte_writeBytes_in (a k : Nat) (bs : List Byte) (hw : Memory.wf s.params.font s.mem = true)
    (hk : k < bs.length) (hr : a + bs.length ≤ addrMax + 1) : (s.writeBytes a bs).readByte (a + k) = bs[k] := by
  induction bs generalizing s a k with
  | nil => simp at hk
  | cons b rest ih =>
    have hw' := Memory.write_wf s.mem a b hw
    simp only [List.length_cons] at hk hr
    cases k with
    | zero =>
      rw [State.writeBytes, State.readByte_writeBytes_other _ _ _ _ (by omega)]
      exact Memory.read_write_same s.mem b hw (by omega)
    | succ k =>
      rw [State.writeBytes, show a + (k + 1) = (a + 1) + k by omega]
      exact ih (s.writeByte a b) (a + 1) k hw' (by omega) (by omega)

/-- The range check in numbers. -/
theorem checkRange_iff (a len : Nat) : checkRange a len = true ↔ a + len - 1 ≤ 0xFFF := by
  unfold checkRange addrMax
  exact decide_eq_true_iff

/-- The fetch check in numbers. -/
theorem checkFetch_iff (pc : Word) : checkFetch pc = true ↔ pc.toNat + 1 ≤ 0xFFF := by
  unfold checkFetch addrMax
  exact decide_eq_true_iff

/-- A push that succeeds: the slot at SP holds the address, SP is one more, nothing else changes. -/
theorem State.push_eq_some {s t : State} {a : Word} (h : s.push a = some t) :
    ∃ hs : s.sp.val < 16, t = { s with stack := s.stack.set s.sp.val a hs, sp := ⟨s.sp.val + 1, by omega⟩ } := by
  unfold State.push at h
  split at h
  · next hs => exact ⟨hs, by simpa using h.symm⟩
  · simp at h

theorem State.push_eq_none {s : State} {a : Word} (h : s.push a = none) : s.sp.val = 16 := by
  unfold State.push at h
  split at h
  · simp at h
  · have := s.sp.isLt; omega

/-- A pop that succeeds: SP is one less, the address is the slot at the new SP, the slots keep their values. -/
theorem State.pop_eq_some {s t : State} {a : Word} (h : s.pop = some (a, t)) :
    ∃ hs : 0 < s.sp.val, a = s.stack[s.sp.val - 1]'(by have := s.sp.isLt; omega) ∧
      t = { s with sp := ⟨s.sp.val - 1, by have := s.sp.isLt; omega⟩ } := by
  unfold State.pop at h
  split at h
  · next hs =>
    simp only [Option.some.injEq, Prod.mk.injEq] at h
    exact ⟨hs, h.1.symm, h.2.symm⟩
  · simp at h

theorem State.pop_eq_none {s : State} (h : s.pop = none) : s.sp.val = 0 := by
  unfold State.pop at h
  split at h
  · simp at h
  · omega

/-- A skip answers the state with pc 4 or 2 further. -/
theorem skipIf_eq (c : Bool) : skipIf c s = .next (s.setPc (if c then s.pc + 4 else s.pc + 2)) := rfl

/-- Taking a fault answers the state with the run faulted and nothing else changed. -/
theorem raiseBy_eq (i : Instr) (r : FaultReason) :
    raiseBy i r s = .next { s with run := .faulted { reason := r, addr := s.pc, word := some (encode i) } } := rfl

/-- A flag byte is 0 or 1. -/
theorem flagByte_cases (b : Bool) : flagByte b = 0 ∨ flagByte b = 1 := by
  cases b <;> simp [flagByte]

/-- The count-down as a number: saturating at 0. -/
theorem countDown_toNat (t : Byte) (k : Nat) : (countDown t k).toNat = t.toNat - k := by
  have := t.isLt
  simp only [countDown, BitVec.toNat_ofNat]
  omega

end Sys2Proof.Machine
end

