-- ==== Sys2Proof/Laws/Exec.lean ====
section
/-! SUPPORT. What the execute of any instruction can do to the state, said once: it answers a next state that agrees
with the start outside the fields `execState` shows, and the end of a tick. -/

namespace Sys2Proof.Machine

open Sys2Proof

/-- Every instruction answers a next state. -/
theorem exec_answers_next (i : Instr) (s : State) : ∃ t, exec i s = .next t := by
  cases i <;> simp only [exec] <;>
    first
    | exact ⟨_, rfl⟩
    | (simp only [execCall, execRet, execJpV0, execAddIVx, execLdBVx, execLdMemVx, execLdVxMem, execDrw]
       split <;> exact ⟨_, rfl⟩)

/-- No instruction touches the timer timestamp, the named arguments or the port fields. -/
theorem exec_keeps_environment {i : Instr} {s t : State} (h : exec i s = .next t) :
    t.last = s.last ∧ t.params = s.params ∧ t.inputs = s.inputs ∧ t.ticks = s.ticks ∧ t.out = s.out := by
  cases i <;> simp only [exec] at h
  case call nnn =>
    unfold execCall at h
    split at h
    · next u hu =>
      obtain ⟨hs, rfl⟩ := State.push_eq_some hu
      simp only [Host.Outcome.next.injEq] at h
      subst h; simp
    · simp only [raiseBy_eq, Host.Outcome.next.injEq] at h
      subst h; simp
  case ret =>
    unfold execRet at h
    split at h
    · next a u hu =>
      obtain ⟨hs, -, rfl⟩ := State.pop_eq_some hu
      simp only [Host.Outcome.next.injEq] at h
      subst h; simp
    · simp only [raiseBy_eq, Host.Outcome.next.injEq] at h
      subst h; simp
  case jpV0 | addIVx | ldBVx | ldMemVx | ldVxMem | drw =>
    simp only [execJpV0, execAddIVx, execLdBVx, execLdMemVx, execLdVxMem, execDrw, raiseBy_eq] at h
    split at h <;> (simp only [Host.Outcome.next.injEq] at h; subst h; simp)
  all_goals
    simp only [execCls, execJp, execSeImm, execSneImm, execSeReg, execSneReg, execLdImm, execAddImm, execLdReg,
      execOrReg, execAndReg, execXorReg, execAddReg, execSubReg, execShr, execSubnReg, execShl, execLdI, execRnd,
      execSkp, execSknp, execLdVxDt, execLdVxK, execLdDtVx, execLdStVx, execLdFVx, skipIf_eq,
      Host.Outcome.next.injEq] at h
    subst h; simp

/-- A fault never changes anything but the run (60_exceptions R305): the shape of every fault an instruction raises. -/
theorem raise_eq (d : Diag) (s : State) : raise d s = .next { s with run := .faulted d } := rfl

/-- The end of a tick on a faulted run: the diagnostic is the only output. -/
theorem endTick_faulted {s : State} {d : Diag} (h : s.run = .faulted d) :
    endTick s = nextInputs { s with out := { redraw := none, soundActive := none, fault := some d } } := by
  simp [endTick, h]

/-- The end of a tick on a live run: timer update, then the reports. -/
theorem endTick_live {s : State} (h : s.run.isFaulted = false) :
    endTick s = nextInputs (report (timerUpdate s.input.now s)) := by
  unfold endTick
  split
  · next d hd => simp [hd, Run.isFaulted] at h
  · rfl

/-- The instruction the running tick fetches and decodes is executed and the tick ended on its result. -/
theorem runningTick_ok {s : State} {i : Instr} (h : fetchDecode s = .ok i) : runningTick s = finishTick (exec i s) := by
  simp only [runningTick, h]

/-- Everything a step that answers `t` can have been: a tick of an ended run, a termination, a fault of the fetch or
the decoder, an execute, or a poll (60_exceptions R300, R309). -/
theorem step_cases {s t : State} (h : step s = .next t) :
    (s.run.ended = true ∧ t = idleTick s)
    ∨ (s.run.ended = false ∧ s.input.terminate = true ∧ t = terminateTick s)
    ∨ (s.run = .running ∧ s.input.terminate = false ∧
        ∃ d, fetchDecode s = .error d ∧ t = endTick { s with run := .faulted d })
    ∨ (s.run = .running ∧ s.input.terminate = false ∧
        ∃ i u, fetchDecode s = .ok i ∧ exec i s = .next u ∧ t = endTick u)
    ∨ (∃ x, s.run = .awaitingKey x ∧ s.input.terminate = false ∧ t = endTick (waitTick x s)) := by
  change tick s = .next t at h
  cases hr : s.run with
  | faulted d =>
    simp only [tick, hr, Host.Outcome.next.injEq] at h
    exact .inl ⟨rfl, h.symm⟩
  | terminated =>
    simp only [tick, hr, Host.Outcome.next.injEq] at h
    exact .inl ⟨rfl, h.symm⟩
  | running =>
    cases ht : s.input.terminate with
    | true =>
      simp only [tick, hr, ht, if_true, Host.Outcome.next.injEq] at h
      exact .inr (.inl ⟨rfl, rfl, h.symm⟩)
    | false =>
      simp only [tick, hr, ht, Bool.false_eq_true, if_false] at h
      cases hd : fetchDecode s with
      | error d =>
        simp only [runningTick, hd, raise, finishTick, Host.Outcome.next.injEq] at h
        exact .inr (.inr (.inl ⟨rfl, rfl, d, rfl, h.symm⟩))
      | ok i =>
        rw [runningTick_ok hd] at h
        obtain ⟨u, hu⟩ := exec_answers_next i s
        rw [hu] at h
        simp only [finishTick, Host.Outcome.next.injEq] at h
        exact .inr (.inr (.inr (.inl ⟨rfl, rfl, i, u, rfl, hu, h.symm⟩)))
  | awaitingKey x =>
    cases ht : s.input.terminate with
    | true =>
      simp only [tick, hr, ht, if_true, Host.Outcome.next.injEq] at h
      exact .inr (.inl ⟨rfl, rfl, h.symm⟩)
    | false =>
      simp only [tick, hr, ht, Bool.false_eq_true, if_false, Host.Outcome.next.injEq] at h
      exact .inr (.inr (.inr (.inr ⟨x, rfl, rfl, h.symm⟩)))

/-- A fetch that fails: past memory, or a word the decoder rejects. -/
theorem fetchDecode_error {s : State} {d : Diag} (h : fetchDecode s = .error d) :
    (checkFetch s.pc = false ∧ d = { reason := .fetchOutOfRange, addr := s.pc, word := none })
    ∨ (checkFetch s.pc = true ∧ (∃ e, decodeWord s.fetchWord = .error e)
        ∧ d = { reason := .decodeFailure, addr := s.pc, word := some s.fetchWord }) := by
  unfold fetchDecode at h
  split at h
  · next hc =>
    split at h
    · simp at h
    · next e he => exact .inr ⟨hc, ⟨e, he⟩, by simpa using h.symm⟩
  · next hc => exact .inl ⟨by simpa using hc, by simpa using h.symm⟩

/-- A fetch that succeeds: two bytes of memory that decode. -/
theorem fetchDecode_ok {s : State} {i : Instr} (h : fetchDecode s = .ok i) :
    checkFetch s.pc = true ∧ decodeWord s.fetchWord = .ok i := by
  unfold fetchDecode at h
  split at h
  · next hc =>
    split at h
    · next j hj => exact ⟨hc, by simpa [hj] using h⟩
    · simp at h
  · simp at h

end Sys2Proof.Machine
end

