-- ==== Sys2Proof/Laws/PerInstr.lean ====
section
/-! SUPPORT. One law per instruction: its word lies in its own row of the opcode table. -/

namespace Sys2Proof.Laws.Opcode

open Sys2Proof

/-- The word the encoder writes for `i` matches the mask and match columns of the row of spec/opcode_table.json that
`i` stands for (30_encoding R82, R85), and `i` is well formed. -/
def Statement (i : Instr) : Prop := i.row.matches (encode i) = true ∧ i.wf = true

/-- A format A word keeps its op under the op mask. -/
theorem encodeA_op (op : BitVec 4) (nnn : Addr) :
    encodeA op nnn &&& 0xF000 = encodeA op 0 := by
  apply BitVec.eq_of_getLsbD_eq
  intro i hi
  simp only [encodeA, BitVec.getLsbD_and, BitVec.getLsbD_append]
  interval_cases i <;> simp

/-- A format XK word keeps its op under the op mask. -/
theorem encodeXK_op (op : BitVec 4) (x : RegIdx) (kk : Byte) :
    encodeXK op x kk &&& 0xF000 = encodeXK op 0 0 := by
  apply BitVec.eq_of_getLsbD_eq
  intro i hi
  simp only [encodeXK, BitVec.getLsbD_and, BitVec.getLsbD_append]
  interval_cases i <;> simp

/-- A format X word keeps its op and low byte. -/
theorem encodeXK_minor (op : BitVec 4) (x : RegIdx) (kk : Byte) :
    encodeXK op x kk &&& 0xF0FF = encodeXK op 0 kk := by
  apply BitVec.eq_of_getLsbD_eq
  intro i hi
  simp only [encodeXK, BitVec.getLsbD_and, BitVec.getLsbD_append]
  interval_cases i <;> simp

/-- A format XY word keeps its op and low nibble. -/
theorem encodeXYN_minor (op : BitVec 4) (x y : RegIdx) (n : BitVec 4) :
    encodeXYN op x y n &&& 0xF00F = encodeXYN op 0 0 n := by
  apply BitVec.eq_of_getLsbD_eq
  intro i hi
  simp only [encodeXYN, BitVec.getLsbD_and, BitVec.getLsbD_append]
  interval_cases i <;> simp

/-- A format XYN word keeps its op under the op mask. -/
theorem encodeXYN_op (op : BitVec 4) (x y : RegIdx) (n : BitVec 4) :
    encodeXYN op x y n &&& 0xF000 = encodeXYN op 0 0 0 := by
  apply BitVec.eq_of_getLsbD_eq
  intro i hi
  simp only [encodeXYN, BitVec.getLsbD_and, BitVec.getLsbD_append]
  interval_cases i <;> simp
/-- Every instruction is well formed: its fields are bit vectors of the widths R81 gives them. -/
theorem wf_all (i : Instr) : i.wf = true := by
  cases i <;> simp only [Instr.wf, fieldFits4, fieldFits8, fieldFits12, Bool.and_eq_true, decide_eq_true_eq] <;> omega

/-- The statement from the masked word alone. -/
theorem of_masked (i : Instr) (h : encode i &&& i.row.mask = i.row.pattern) : Statement i :=
  ⟨by simp [OpcodeRow.matches, h], wf_all i⟩

theorem cls : Statement .cls := of_masked _ rfl
theorem ret : Statement .ret := of_masked _ rfl
theorem jp (nnn : Addr) : Statement (.jp nnn) := of_masked _ (encodeA_op _ nnn)
theorem call (nnn : Addr) : Statement (.call nnn) := of_masked _ (encodeA_op _ nnn)
theorem seImm (x : RegIdx) (kk : Byte) : Statement (.seImm x kk) := of_masked _ (encodeXK_op _ x kk)
theorem sneImm (x : RegIdx) (kk : Byte) : Statement (.sneImm x kk) := of_masked _ (encodeXK_op _ x kk)
theorem seReg (x y : RegIdx) : Statement (.seReg x y) := of_masked _ (encodeXYN_minor _ x y _)
theorem ldImm (x : RegIdx) (kk : Byte) : Statement (.ldImm x kk) := of_masked _ (encodeXK_op _ x kk)
theorem addImm (x : RegIdx) (kk : Byte) : Statement (.addImm x kk) := of_masked _ (encodeXK_op _ x kk)
theorem ldReg (x y : RegIdx) : Statement (.ldReg x y) := of_masked _ (encodeXYN_minor _ x y _)
theorem orReg (x y : RegIdx) : Statement (.orReg x y) := of_masked _ (encodeXYN_minor _ x y _)
theorem andReg (x y : RegIdx) : Statement (.andReg x y) := of_masked _ (encodeXYN_minor _ x y _)
theorem xorReg (x y : RegIdx) : Statement (.xorReg x y) := of_masked _ (encodeXYN_minor _ x y _)
theorem addReg (x y : RegIdx) : Statement (.addReg x y) := of_masked _ (encodeXYN_minor _ x y _)
theorem subReg (x y : RegIdx) : Statement (.subReg x y) := of_masked _ (encodeXYN_minor _ x y _)
theorem shr (x y : RegIdx) : Statement (.shr x y) := of_masked _ (encodeXYN_minor _ x y _)
theorem subnReg (x y : RegIdx) : Statement (.subnReg x y) := of_masked _ (encodeXYN_minor _ x y _)
theorem shl (x y : RegIdx) : Statement (.shl x y) := of_masked _ (encodeXYN_minor _ x y _)
theorem sneReg (x y : RegIdx) : Statement (.sneReg x y) := of_masked _ (encodeXYN_minor _ x y _)
theorem ldI (nnn : Addr) : Statement (.ldI nnn) := of_masked _ (encodeA_op _ nnn)
theorem jpV0 (nnn : Addr) : Statement (.jpV0 nnn) := of_masked _ (encodeA_op _ nnn)
theorem rnd (x : RegIdx) (kk : Byte) : Statement (.rnd x kk) := of_masked _ (encodeXK_op _ x kk)
theorem drw (x y : RegIdx) (n : BitVec 4) : Statement (.drw x y n) := of_masked _ (encodeXYN_op _ x y n)
theorem skp (x : RegIdx) : Statement (.skp x) := of_masked _ (encodeXK_minor _ x _)
theorem sknp (x : RegIdx) : Statement (.sknp x) := of_masked _ (encodeXK_minor _ x _)
theorem ldVxDt (x : RegIdx) : Statement (.ldVxDt x) := of_masked _ (encodeXK_minor _ x _)
theorem ldVxK (x : RegIdx) : Statement (.ldVxK x) := of_masked _ (encodeXK_minor _ x _)
theorem ldDtVx (x : RegIdx) : Statement (.ldDtVx x) := of_masked _ (encodeXK_minor _ x _)
theorem ldStVx (x : RegIdx) : Statement (.ldStVx x) := of_masked _ (encodeXK_minor _ x _)
theorem addIVx (x : RegIdx) : Statement (.addIVx x) := of_masked _ (encodeXK_minor _ x _)
theorem ldFVx (x : RegIdx) : Statement (.ldFVx x) := of_masked _ (encodeXK_minor _ x _)
theorem ldBVx (x : RegIdx) : Statement (.ldBVx x) := of_masked _ (encodeXK_minor _ x _)
theorem ldMemVx (x : RegIdx) : Statement (.ldMemVx x) := of_masked _ (encodeXK_minor _ x _)
theorem ldVxMem (x : RegIdx) : Statement (.ldVxMem x) := of_masked _ (encodeXK_minor _ x _)

end Sys2Proof.Laws.Opcode
end

