-- ==== Sys2Proof/Tests/Slice0.lean ====
section
/-! SUPPORT. The model's own tests: ill-formed terms each check refuses, words written out from the encodings, the
spec's vectors (95_test_vectors) on single executes and ticks, and a witness for the hypotheses of each statement. -/

namespace Sys2Proof.Tests

open Sys2Proof Sys2Proof.Machine

/-- What `f` sees of the next state, if there is one. -/
def after {α : Type} (r : Result) (f : State → α) : Option α :=
  match r with
  | .next t => some (f t)
  | _ => none

/-- The reset state with one quiet tick at time 0 listed (the start state of 95_test_vectors). -/
def base : State := { State.reset with inputs := [quietInput 0] }

/-- `base` with VF = 0x55, so that an unchanged VF shows. -/
def flagged : State := base.setReg vf 0x55

/-- `base` with the coming tick's inputs. -/
def withInput (i : Config.TickInput) : State := { base with inputs := [i] }

/-- The next state of an execute, or the start where there is none: for witnesses. -/
def execOr (i : Instr) (s : State) : State :=
  match exec i s with
  | .next t => t
  | _ => s

theorem exec_execOr (i : Instr) (s : State) : exec i s = .next (execOr i s) := by
  obtain ⟨t, h⟩ := exec_answers_next i s
  simp [execOr, h]

/-! ## Ill-formed terms -/

theorem test_wf_refuses_wide_fields : fieldFits4 16 = false ∧ fieldFits8 256 = false ∧ fieldFits12 4096 = false := by
  decide

theorem test_wf_accepts_field_bounds : fieldFits4 15 = true ∧ fieldFits8 255 = true ∧ fieldFits12 4095 = true := by
  decide

theorem test_wf_refuses_illegal_words : wordLegal 0x0000 = false ∧ wordLegal 0x5121 = false ∧ wordLegal 0xF175 = false := by
  decide

theorem test_wf_refuses_long_image (b : Byte) : imageFits (List.replicate 3585 b) = false := by
  unfold imageFits
  rw [List.length_replicate]
  decide

theorem test_memory_wf_refuses_disorder : Memory.wf defaultFont [(0x301, 1), (0x300, 1)] = false := by decide

theorem test_memory_wf_refuses_default_entries :
    Memory.wf defaultFont [(0x300, 0)] = false ∧ Memory.wf defaultFont [(0x000, 0xF0)] = false := by decide

theorem test_memory_wf_refuses_absent_address : Memory.wf defaultFont [(0x1000, 1)] = false := by decide

theorem test_inv_refuses_wide_pc : ¬ ({ base with pc := 0x1003 } : State).Inv := by decide

/-! ## Decoding: words written out from the encoding lines -/

theorem test_decode_blitter : decodeWord 0b0000000011100000 = .ok .cls
    ∧ decodeWord 0b1101101111001111 = .ok (.drw 0xB 0xC 0xF) := by decide +kernel

theorem test_decode_jumps : decodeWord 0b0000000011101110 = .ok .ret ∧ decodeWord 0b0001001000110100 = .ok (.jp 0x234)
    ∧ decodeWord 0b0010010000000001 = .ok (.call 0x401) ∧ decodeWord 0b1011111100000001 = .ok (.jpV0 0xF01) := by
  decide +kernel

theorem test_decode_skips : decodeWord 0b0011001100010000 = .ok (.seImm 3 0x10)
    ∧ decodeWord 0b0100001100010000 = .ok (.sneImm 3 0x10) ∧ decodeWord 0b0101000100100000 = .ok (.seReg 1 2)
    ∧ decodeWord 0b1001000100100000 = .ok (.sneReg 1 2) := by decide +kernel

theorem test_decode_immediates : decodeWord 0b0110101001000010 = .ok (.ldImm 0xA 0x42)
    ∧ decodeWord 0b0111101011111111 = .ok (.addImm 0xA 0xFF) ∧ decodeWord 0b1100000100001111 = .ok (.rnd 1 0x0F) := by
  decide +kernel

theorem test_decode_alu_logic : decodeWord 0b1000000100100000 = .ok (.ldReg 1 2)
    ∧ decodeWord 0b1000000100100001 = .ok (.orReg 1 2) ∧ decodeWord 0b1000000100100010 = .ok (.andReg 1 2)
    ∧ decodeWord 0b1000000100100011 = .ok (.xorReg 1 2) := by decide +kernel

theorem test_decode_alu_arith : decodeWord 0b1000000100100100 = .ok (.addReg 1 2)
    ∧ decodeWord 0b1000000100100101 = .ok (.subReg 1 2) ∧ decodeWord 0b1000000111110110 = .ok (.shr 1 0xF)
    ∧ decodeWord 0b1000000100100111 = .ok (.subnReg 1 2) ∧ decodeWord 0b1000001100001110 = .ok (.shl 3 0) := by
  decide +kernel

theorem test_decode_index : decodeWord 0b1010001011110000 = .ok (.ldI 0x2F0)
    ∧ decodeWord 0b1111000100011110 = .ok (.addIVx 1) ∧ decodeWord 0b1111000100101001 = .ok (.ldFVx 1)
    ∧ decodeWord 0b1111000100110011 = .ok (.ldBVx 1) ∧ decodeWord 0b1111000101010101 = .ok (.ldMemVx 1)
    ∧ decodeWord 0b1111000101100101 = .ok (.ldVxMem 1) := by decide +kernel

theorem test_decode_input_timer : decodeWord 0b1110000110011110 = .ok (.skp 1)
    ∧ decodeWord 0b1110000110100001 = .ok (.sknp 1) ∧ decodeWord 0b1111000100000111 = .ok (.ldVxDt 1)
    ∧ decodeWord 0b1111000100001010 = .ok (.ldVxK 1) ∧ decodeWord 0b1111000100010101 = .ok (.ldDtVx 1)
    ∧ decodeWord 0b1111000100011000 = .ok (.ldStVx 1) := by decide +kernel

theorem test_decode_rejects_by_word : decodeWord 0x0123 = .error (.decodeFailure 0x0123)
    ∧ decodeWord 0x812F = .error (.decodeFailure 0x812F) ∧ decodeWord 0x912E = .error (.decodeFailure 0x912E)
    ∧ decodeWord 0xE19F = .error (.decodeFailure 0xE19F) ∧ decodeWord 0xF1FF = .error (.decodeFailure 0xF1FF) := by
  decide +kernel

theorem test_decode_bytes_big_endian : decodeBytes [0x60, 0x05, 0x70] = .ok (.ldImm 0 0x05, [0x70])
    ∧ decodeBytes [0x60] = .error .truncated := by decide

theorem test_decode_table_word : decodeTableWord 16 0xD015 = some (.drw 0 1 5) ∧ decodeTableWord 16 0x0000 = none := by
  decide

/-! ## Control flow (95_test_vectors, Skips; Jumps, calls, returns) -/

theorem test_se_imm : after (exec (.seImm 3 0x10) (base.setReg 3 0x10)) State.pc = some 0x204
    ∧ after (exec (.seImm 3 0x10) (base.setReg 3 0x11)) State.pc = some 0x202 := by decide

theorem test_sne_imm : after (exec (.sneImm 3 0x10) (base.setReg 3 0x10)) State.pc = some 0x202
    ∧ after (exec (.sneImm 3 0x10) (base.setReg 3 0x11)) State.pc = some 0x204 := by decide

theorem test_se_reg : after (exec (.seReg 1 2) ((base.setReg 1 7).setReg 2 7)) State.pc = some 0x204
    ∧ after (exec (.seReg 1 2) ((base.setReg 1 7).setReg 2 8)) State.pc = some 0x202 := by decide

theorem test_sne_reg : after (exec (.sneReg 1 2) ((base.setReg 1 7).setReg 2 8)) State.pc = some 0x204
    ∧ after (exec (.sneReg 1 1) (base.setReg 1 7)) State.pc = some 0x202 := by decide

theorem test_jp : after (exec (.jp 0x234) base) State.pc = some 0x234 := by decide

theorem test_call : after (exec (.call 0x400) base) (fun t => (t.stack[0], t.sp.val, t.pc)) = some (0x202, 1, 0x400) := by
  decide

theorem test_call_overflow : after (exec (.call 0x400) { base with sp := 16 }) (fun t => (t.run, t.sp.val, t.pc)) =
    some (.faulted ⟨.stackOverflow, 0x200, some 0x2400⟩, 16, 0x200) := by decide

theorem test_ret : after (exec .ret { base with sp := 1, stack := base.stack.set 0 0x202, pc := 0x400 })
    (fun t => (t.sp.val, t.pc, t.stack[0])) = some (0, 0x202, 0x202) := by decide

theorem test_ret_underflow : after (exec .ret base) State.run =
    some (.faulted ⟨.stackUnderflow, 0x200, some 0x00EE⟩) := by decide

theorem test_jp_v0 : after (exec (.jpV0 0x300) (base.setReg 0 0x10)) State.pc = some 0x310
    ∧ after (exec (.jpV0 0xFFF) base) State.pc = some 0xFFF := by decide

theorem test_jp_v0_out_of_range : after (exec (.jpV0 0xF01) (base.setReg 0 0xFF)) (fun t => (t.run, t.pc)) =
    some (.faulted ⟨.jumpOutOfRange, 0x200, some 0xBF01⟩, 0x200) := by decide

/-! ## ALU (95_test_vectors, ALU; VF starts at 0x55) -/

theorem test_ld_imm : after (exec (.ldImm 0xA 0x42) flagged) (fun t => (t.reg 0xA, t.reg vf)) = some (0x42, 0x55) := by
  decide

theorem test_add_imm_no_carry : after (exec (.addImm 0xA 0xFF) (flagged.setReg 0xA 0x01))
    (fun t => (t.reg 0xA, t.reg vf)) = some (0x00, 0x55) := by decide

theorem test_ld_reg : after (exec (.ldReg 1 2) (flagged.setReg 2 0x42)) (fun t => (t.reg 1, t.reg vf)) =
    some (0x42, 0x55) := by decide

theorem test_or : after (exec (.orReg 1 2) ((flagged.setReg 1 0x0F).setReg 2 0xF0)) (fun t => (t.reg 1, t.reg vf)) =
    some (0xFF, 0x55) := by decide

theorem test_and : after (exec (.andReg 1 2) ((flagged.setReg 1 0x3C).setReg 2 0x0F)) (fun t => (t.reg 1, t.reg vf)) =
    some (0x0C, 0x55) := by decide

theorem test_xor : after (exec (.xorReg 1 2) ((flagged.setReg 1 0xFF).setReg 2 0x0F)) (fun t => (t.reg 1, t.reg vf)) =
    some (0xF0, 0x55) := by decide

theorem test_add_carry : after (exec (.addReg 1 2) ((flagged.setReg 1 0xF0).setReg 2 0x20))
    (fun t => (t.reg 1, t.reg vf)) = some (0x10, 1) := by decide

theorem test_add_into_vf_both_orders :
    after (exec (.addReg 0xF 1) ((base.setReg vf 0x01).setReg 1 0xFF)) (fun t => t.reg vf) = some 0x01
    ∧ after (exec (.addReg 0xF 1) { (base.setReg vf 0x01).setReg 1 0xFF with
        params := { defaultParams with vfDest := .resultWins } }) (fun t => t.reg vf) = some 0x00 := by decide

theorem test_sub_borrow : after (exec (.subReg 1 2) ((flagged.setReg 1 0x10).setReg 2 0x20))
    (fun t => (t.reg 1, t.reg vf)) = some (0xF0, 0) := by decide

theorem test_sub_equal : after (exec (.subReg 1 2) ((flagged.setReg 1 0x05).setReg 2 0x05))
    (fun t => (t.reg 1, t.reg vf)) = some (0x00, 1) := by decide

theorem test_shr : after (exec (.shr 1 0) (flagged.setReg 1 0x05)) (fun t => (t.reg 1, t.reg vf)) = some (0x02, 1) := by
  decide

theorem test_subn : after (exec (.subnReg 1 2) ((flagged.setReg 1 0x10).setReg 2 0x30))
    (fun t => (t.reg 1, t.reg vf)) = some (0x20, 1) := by decide

theorem test_subn_borrow : after (exec (.subnReg 1 2) (flagged.setReg 1 0x01)) (fun t => (t.reg 1, t.reg vf)) =
    some (0xFF, 0) := by decide

theorem test_shl : after (exec (.shl 1 0) (flagged.setReg 1 0x80)) (fun t => (t.reg 1, t.reg vf)) = some (0x00, 1) := by
  decide

theorem test_shl_into_vf_both_orders : after (exec (.shl 0xF 0) (base.setReg vf 0x81)) (fun t => t.reg vf) = some 0x01
    ∧ after (exec (.shl 0xF 0) { base.setReg vf 0x81 with params := { defaultParams with vfDest := .resultWins } })
        (fun t => t.reg vf) = some 0x02 := by decide

/-! ## Index and memory (95_test_vectors, Index and memory) -/

theorem test_ld_i : after (exec (.ldI 0x2F0) base) State.index = some 0x2F0 := by decide

theorem test_add_i : after (exec (.addIVx 2) (({ flagged with index := 0xFFF0 } : State).setReg 2 0x0F))
    (fun t => (t.index, t.reg vf)) = some (0xFFFF, 0x55) := by decide

theorem test_add_i_overflow : after (exec (.addIVx 2) (({ base with index := 0xFFFF } : State).setReg 2 0x01))
    (fun t => (t.run, t.index)) = some (.faulted ⟨.indexOverflow, 0x200, some 0xF21E⟩, 0xFFFF) := by decide

theorem test_ld_f : after (exec (.ldFVx 1) (base.setReg 1 0x3A)) State.index = some 0x032
    ∧ after (exec (.ldFVx 1) (base.setReg 1 9)) State.index = some 0x02D := by decide

theorem test_bcd_at_top : after (exec (.ldBVx 3) (({ base with index := 0xFFD } : State).setReg 3 255))
    (fun t => (t.readByte 0xFFD, t.readByte 0xFFE, t.readByte 0xFFF, t.index)) = some (2, 5, 5, 0xFFD) := by decide

theorem test_bcd_out_of_range : after (exec (.ldBVx 3) (({ base with index := 0xFFE } : State).setReg 3 255))
    (fun t => (t.run, t.mem)) = some (.faulted ⟨.memoryOutOfRange, 0x200, some 0xF333⟩, []) := by decide

theorem test_block_store : after (exec (.ldMemVx 1) ((({ base with index := 0x300 } : State).setReg 0 1).setReg 1 2))
    (fun t => (t.readByte 0x300, t.readByte 0x301, t.index)) = some (1, 2, 0x300) := by decide

theorem test_block_store_out_of_range : after (exec (.ldMemVx 1) { base with index := 0xFFF })
    (fun t => t.run.isFaulted) = some true
    ∧ after (exec (.ldMemVx 0) { base with index := 0xFFF }) (fun t => t.run.isFaulted) = some false := by decide

theorem test_block_load : after (exec (.ldVxMem 2) (({ base with index := 0x300 } : State).writeBytes 0x300 [2, 5, 5]))
    (fun t => (t.reg 0, t.reg 1, t.reg 2, t.reg 3)) = some (2, 5, 5, 0) := by decide

theorem test_block_load_out_of_range : after (exec (.ldVxMem 0) { base with index := 0x1000 }) State.run =
    some (.faulted ⟨.memoryOutOfRange, 0x200, some 0xF065⟩) := by decide

/-! ## Blitter (95_test_vectors, Blitter) -/

theorem test_cls : after (exec .cls { flagged with fb := Vector.replicate 32 5, dirty := false })
    (fun t => (t.fb, t.dirty, t.reg vf)) = some (Framebuffer.clear, true, 0x55) := by decide

theorem test_drw_glyph_zero : after (exec (.drw 0 1 5) base) (fun t => (t.fb[0], t.fb[1], t.fb[3], t.fb[4], t.fb[5], t.reg vf))
    = some (0xF, 0x9, 0x9, 0xF, 0, 0) := by decide

theorem test_drw_clips : after (exec (.drw 0 1 4) ((({ base with index := 0x300 } : State).writeBytes 0x300
      [0xFF, 0xFF, 0xFF, 0xFF]).setReg 0 60 |>.setReg 1 30)) (fun t => (t.fb[30], t.fb[31], t.fb[0], t.reg vf)) =
    some (0xF000000000000000, 0xF000000000000000, 0, 0) := by decide

/-! ## Input, timers, random (95_test_vectors) -/

/-- A tick with button 4 held and the random byte 0xB7. -/
def keyFour : State := withInput { now := 0, keys := 0x0010, press := some 0xA, randByte := 0xB7, terminate := false }

theorem test_skp : after (exec (.skp 5) (keyFour.setReg 5 0x14)) State.pc = some 0x204
    ∧ after (exec (.skp 5) (base.setReg 5 4)) State.pc = some 0x202 := by decide

theorem test_sknp : after (exec (.sknp 5) (keyFour.setReg 5 4)) State.pc = some 0x202
    ∧ after (exec (.sknp 5) (base.setReg 5 4)) State.pc = some 0x204 := by decide

theorem test_ld_vx_k_waits : after (step (keyFour.withFetchWord 16 0xF30A)) (fun t => (t.run, t.pc, t.reg 3)) =
    some (.awaitingKey 3, 0x200, 0) := by decide

theorem test_key_wait_completes : after (step { keyFour with run := .awaitingKey 3 }) (fun t => (t.run, t.pc, t.reg 3)) =
    some (.running, 0x202, 0x0A) := by decide

theorem test_ld_vx_dt : after (exec (.ldVxDt 2) { base with dt := 0x3C }) (fun t => t.reg 2) = some 0x3C := by decide

theorem test_ld_dt : after (exec (.ldDtVx 2) (base.setReg 2 60)) State.dt = some 60 := by decide

theorem test_ld_st_sounds : after (step ((base.setReg 2 10).withFetchWord 16 0xF218))
    (fun t => (t.st, t.out.soundActive)) = some (10, some true) := by decide

theorem test_rnd : after (exec (.rnd 1 0x0F) keyFour) (fun t => t.reg 1) = some 0x07
    ∧ after (exec (.rnd 1 0x00) keyFour) (fun t => t.reg 1) = some 0x00 := by decide

/-! ## The tick, the timer engine, reset (95_test_vectors, Timer engine; S9; P6) -/

/-- One period of the default arguments, 50,000,000 units. -/
theorem test_period : periodUnits defaultParams = 50_000_000 := by decide

/-- S9: 120 periods take both timers from 120 to 0; 1.5 periods take one, and the remainder is kept. -/
theorem test_timer_update : (timerUpdate 6_000_000_000 { base with dt := 120, st := 120 }).dt = 0
    ∧ (timerUpdate 6_000_000_000 { base with dt := 120, st := 120 }).st = 0
    ∧ (timerUpdate 75_000_000 { base with dt := 5 }).dt = 4
    ∧ (timerUpdate 75_000_000 { base with dt := 5 }).last = 50_000_000 := by decide

/-- Write and update in one tick: DT = 10 - 2. -/
theorem test_write_then_update : after (step (({ base with inputs := [quietInput 100_000_000] } : State).setReg 0 10
    |>.withFetchWord 16 0xF015)) State.dt = some 8 := by decide

/-- A faulting tick does no timer update and no report. -/
theorem test_faulting_tick : after (step (({ base with dt := 10, inputs := [quietInput 3_000_000_000] } : State).withFetchWord
    16 0x00EE)) (fun t => (t.dt, t.last, t.dirty, t.out.redraw)) = some (10, 0, true, none) := by decide

theorem test_first_tick_redraws : after (step (base.withFetchWord 16 0x6005))
    (fun t => (t.reg 0, t.pc, t.dirty, t.out.redraw)) = some (0x05, 0x202, false, some true) := by decide

/-- P6: the empty image faults on its first tick. -/
theorem test_empty_image_faults : after (step base) State.run =
    some (.faulted ⟨.decodeFailure, 0x200, some 0x0000⟩) := by decide

theorem test_fetch_at_top_faults : after (step { base with pc := 0xFFF }) State.run =
    some (.faulted ⟨.fetchOutOfRange, 0xFFF, none⟩) := by decide

/-! ## Witnesses: a state and operands that meet the hypotheses of each statement -/

/-- A running state about to execute `LD V0, 05`. -/
def ready : State := base.withFetchWord 16 0x6005

/-- A running state about to fault: RET on an empty stack. -/
def aboutToFault : State := base.withFetchWord 16 0x00EE

theorem witness_DecodeOfEncodeIsTheInstruction : (Instr.drw 0xF 0xF 0xF).wf = true := by decide

theorem witness_EncodeOfDecodeIsTheWord : decodeWord 0xD015 = .ok (.drw 0 1 5) := by decide

theorem witness_ImageLoadsAtProgramBase : (List.replicate 3584 (0 : Byte)).length ≤ 3584 :=
  List.length_replicate.le

theorem witness_UnloadableImageStartsNoRun : (List.replicate 3585 (0 : Byte)).length > 3584 := by
  rw [List.length_replicate]
  decide

theorem witness_StepRunsTheDecodedInstruction : ready.run = .running ∧ ready.input.terminate = false
    ∧ ready.pc.toNat + 1 ≤ 0xFFF
    ∧ decodeWord (ready.readByte ready.pc.toNat ++ ready.readByte (ready.pc.toNat + 1)) = .ok (.ldImm 0 5)
    ∧ (Instr.ldImm 0 5).wf = true ∧ (execOr (.ldImm 0 5) ready).run.isFaulted = false := by decide

theorem witness_StepRunsTheDecodedInstruction_fault : aboutToFault.run = .running
    ∧ aboutToFault.input.terminate = false ∧ aboutToFault.pc.toNat + 1 ≤ 0xFFF
    ∧ decodeWord (aboutToFault.readByte aboutToFault.pc.toNat ++ aboutToFault.readByte (aboutToFault.pc.toNat + 1))
        = .ok .ret
    ∧ (execOr .ret aboutToFault).run = .faulted ⟨.stackUnderflow, 0x200, some 0x00EE⟩ := by decide

theorem witness_FetchPastMemoryFaults : ({ base with pc := 0xFFF } : State).run = .running
    ∧ ({ base with pc := 0xFFF } : State).input.terminate = false
    ∧ ({ base with pc := 0xFFF } : State).pc.toNat + 1 > 0xFFF := by decide

theorem witness_DecodeFailureFaultsWithItsWord : base.run = .running ∧ base.input.terminate = false
    ∧ base.pc.toNat + 1 ≤ 0xFFF ∧ (base.readByte base.pc.toNat ++ base.readByte (base.pc.toNat + 1) : Word) = 0x0000
    ∧ ∀ i, decodeWord 0x0000 ≠ .ok i := by
  refine ⟨rfl, rfl, by decide, by decide, fun i h => ?_⟩
  have : decodeWord 0x0000 = .error (.decodeFailure 0x0000) := by decide
  rw [this] at h
  exact Except.noConfusion rfl rfl (heq_of_eq h)

/-- A tick that asks for termination. -/
def terminating : State := withInput { quietInput 0 with terminate := true }

theorem witness_TerminationEndsALiveRun : terminating.run.ended = false ∧ terminating.input.terminate = true := by decide

theorem witness_EndedRunIgnoresEveryTick : ({ base with run := .terminated } : State).run.ended = true := by decide

theorem witness_WaitingTickPollsForAPress : ({ keyFour with run := .awaitingKey 3 } : State).run = .awaitingKey 3
    ∧ ({ keyFour with run := .awaitingKey 3 } : State).input.terminate = false
    ∧ ({ keyFour with run := .awaitingKey 3 } : State).input.press = some 0xA
    ∧ ({ base with run := .awaitingKey 3 } : State).input.press = none := by decide

theorem witness_TimerUpdateCountsCompletePeriods : base.last ≤ 75_000_000 := by decide

theorem witness_TimerCountIsIndependentOfTickSpacing :
    (base.last :: ([25_000_000, 75_000_000] ++ [75_000_000])).Pairwise (· ≤ ·) := by decide

theorem witness_FaultsArePreciseAndListed : base.run.isFaulted = false ∧ exec .ret base = .next (execOr .ret base)
    ∧ (execOr .ret base).run.isFaulted = true := ⟨rfl, exec_execOr _ _, by decide⟩

theorem witness_InstructionsFaultExactlyWhenTheirRulesSay : base.run.isFaulted = false ∧ faultsWhen .ret base
    ∧ ¬ faultsWhen (.drw 0 0 0) { base with index := 0xFFFF } :=
  ⟨rfl, rfl, fun h => h.1 rfl⟩

theorem witness_FaultingTickChangesOnlyTheRun : aboutToFault.run.ended = false
    ∧ step aboutToFault = .next (endTick (execOr .ret aboutToFault))
    ∧ (endTick (execOr .ret aboutToFault)).run.isFaulted = true := ⟨by decide, rfl, by decide⟩

theorem witness_ExecuteKeepsUnlistedRegisters : exec (.addReg 1 2) base = .next (execOr (.addReg 1 2) base)
    ∧ writesReg (.addReg 1 2) 2 = false := ⟨exec_execOr _ _, by decide⟩

theorem witness_ExecuteKeepsBytesOutsideTheStore : exec (.ldBVx 0) base = .next (execOr (.ldBVx 0) base)
    ∧ storesTo (.ldBVx 0) base = some (0, 3) ∧ storesTo (.drw 0 0 1) base = none :=
  ⟨exec_execOr _ _, rfl, rfl⟩

theorem witness_ExecuteKeepsUnlistedSpecialState : exec (.addReg 1 2) base = .next (execOr (.addReg 1 2) base)
    ∧ writesIndex (.addReg 1 2) = false ∧ writesStack (.addReg 1 2) = false ∧ writesScreen (.addReg 1 2) = false
    ∧ (execOr (.addReg 1 2) base).run.isFaulted = false := ⟨exec_execOr _ _, rfl, rfl, rfl, by decide⟩

theorem witness_SkipsNeverLookAtTheSkippedWord :
    ∃ x y kk, (Instr.skp 5) ∈ [.seImm x kk, .sneImm x kk, .seReg x y, .sneReg x y, .skp x, .sknp x] :=
  ⟨5, 0, 0, by decide⟩

theorem witness_CallPushesAndJumps : ({ base with sp := 15 } : State).sp.val < 16
    ∧ ({ base with sp := 16 } : State).sp.val = 16 := by decide

theorem witness_ReturnPops : 0 < ({ base with sp := 1 } : State).sp.val ∧ base.sp.val = 0 := by decide

theorem witness_NestedCallsReturnInOrder : base.sp.val + ((List.replicate 15 (0x300 : Addr)).length + 1) ≤ 16
    ∧ base.sp.val + ((List.replicate 15 (0x300 : Addr)).length + 1) = 16 := by decide

theorem witness_JumpWithV0 : (0xFFF : Addr).toNat + (base.reg 0).toNat ≤ 0xFFF
    ∧ (0xFFF : Addr).toNat + ((base.setReg 0 1).reg 0).toNat > 0xFFF := by decide

theorem witness_WrittenFlagIsZeroOrOne :
    (Instr.addReg 1 2) ∈ [Instr.addReg 1 2, .subReg 1 2, .shr 1 2, .subnReg 1 2, .shl 1 2, .drw 1 2 0]
    ∧ (1 : RegIdx) ≠ vf ∧ exec (.addReg 1 2) base = .next (execOr (.addReg 1 2) base)
    ∧ (execOr (.addReg 1 2) base).run.isFaulted = false := ⟨by decide, by decide, exec_execOr _ _, by decide⟩

theorem witness_AddToIndex :
    ({ base.setReg 2 0x0F with index := 0xFFF0 } : State).index.toNat + ((base.setReg 2 0x0F).reg 2).toNat ≤ 0xFFFF
    ∧ ({ base.setReg 2 0x10 with index := 0xFFF0 } : State).index.toNat + ((base.setReg 2 0x10).reg 2).toNat > 0xFFFF := by
  decide

theorem witness_BcdStoresDecimalDigits : Memory.wf base.params.font base.mem = true
    ∧ ({ base with index := 0xFFD } : State).index.toNat + 2 ≤ 0xFFF
    ∧ ({ base with index := 0xFFE } : State).index.toNat + 2 > 0xFFF := by decide

theorem witness_BlockStore : Memory.wf base.params.font base.mem = true
    ∧ ({ base with index := 0xFF0 } : State).index.toNat + (0xF : RegIdx).toNat ≤ 0xFFF
    ∧ ({ base with index := 0xFF1 } : State).index.toNat + (0xF : RegIdx).toNat > 0xFFF := by decide

theorem witness_BlockLoad : ({ base with index := 0xFFF } : State).index.toNat + (0 : RegIdx).toNat ≤ 0xFFF
    ∧ ({ base with index := 0xFFF } : State).index.toNat + (1 : RegIdx).toNat > 0xFFF := by decide

/-- A state whose I is in the program region. -/
def indexed : State := { base with index := 0x300 }

theorem witness_BlockLoadUndoesBlockStore : Memory.wf indexed.params.font indexed.mem = true
    ∧ indexed.index.toNat + (3 : RegIdx).toNat ≤ 0xFFF
    ∧ exec (.ldMemVx 3) indexed = .next (execOr (.ldMemVx 3) indexed)
    ∧ (execOr (.ldMemVx 3) indexed).mem = (execOr (.ldMemVx 3) indexed).mem := ⟨by decide, by decide, exec_execOr _ _, rfl⟩

theorem witness_StoredBytesAreFetched : Memory.wf indexed.params.font indexed.mem = true
    ∧ indexed.index.toNat + (3 : RegIdx).toNat ≤ 0xFFF ∧ (1 : RegIdx).toNat + 1 = (2 : RegIdx).toNat
    ∧ (2 : RegIdx).toNat ≤ (3 : RegIdx).toNat ∧ exec (.ldMemVx 3) indexed = .next (execOr (.ldMemVx 3) indexed)
    ∧ ({ execOr (.ldMemVx 3) indexed with pc := 0x301 } : State).pc.toNat = indexed.index.toNat + (1 : RegIdx).toNat :=
  ⟨by decide, by decide, by decide, by decide, exec_execOr _ _, by decide⟩

theorem witness_DrawXorsTheClippedSprite : ((0 : BitVec 4) = 0 ∨ ({ base with index := 0xFFFF } : State).index.toNat + 0 - 1 ≤ 0xFFF)
    ∧ ((1 : BitVec 4) = 0 ∨ ({ base with index := 0xFFF } : State).index.toNat + (1 : BitVec 4).toNat - 1 ≤ 0xFFF) := by
  decide

/-- A one-row sprite over a set cell, and over a clear one. -/
theorem witness_DrawXorsTheClippedSprite_cells :
    SomeCell (fun px py => (execOr (.drw 0 1 1) base).cell px py && spriteCovers 0 1 1 (execOr (.drw 0 1 1) base) px py)
    ∧ SomeCell (spriteCovers 0 1 1 base) :=
  ⟨⟨0, 0, by decide, by decide, by decide⟩, ⟨0, 0, by decide, by decide, by decide⟩⟩

theorem witness_DrawingTwiceErases : (0 : RegIdx) ≠ vf ∧ (1 : RegIdx) ≠ vf
    ∧ base.index.toNat + (1 : BitVec 4).toNat - 1 ≤ 0xFFF ∧ exec (.drw 0 1 1) base = .next (execOr (.drw 0 1 1) base)
    ∧ (execOr (.drw 0 1 1) base).reg vf = 0 ∧ SomeCell (spriteCovers 0 1 1 base) :=
  ⟨by decide, by decide, by decide, exec_execOr _ _, by decide, ⟨0, 0, by decide, by decide, by decide⟩⟩

theorem witness_DrawPastMemoryFaults : (2 : BitVec 4) ≠ 0
    ∧ ({ base with index := 0xFFF } : State).index.toNat + (2 : BitVec 4).toNat - 1 > 0xFFF := by decide

theorem witness_NoInstructionReadsTheSoundTimer : exec (.drw 0 1 1) base = .next (execOr (.drw 0 1 1) base) :=
  exec_execOr _ _

theorem witness_OnlyKeyAndRandomInstructionsReadInputs :
    (∀ x, Instr.drw 0 1 1 ≠ .skp x ∧ Instr.drw 0 1 1 ≠ .sknp x ∧ ∀ kk, Instr.drw 0 1 1 ≠ .rnd x kk)
    ∧ exec (.drw 0 1 1) base = .next (execOr (.drw 0 1 1) base) := by
  refine ⟨fun x => ⟨?_, ?_, fun kk => ?_⟩, exec_execOr _ _⟩ <;> exact fun h => Instr.noConfusion h

theorem witness_EveryStepKeepsTheInvariant : ready.Inv ∧ step ready = .next (endTick (execOr (.ldImm 0 5) ready)) :=
  ⟨by decide, rfl⟩

theorem witness_InvariantHoldsAfterReset :
    ∃ s, resetWith defaultParams (some [0x60, 0x05, 0x70, 0x03]) 0 = .ok s := ⟨_, rfl⟩

end Sys2Proof.Tests
end

/-! ## Encoding (30_encoding): a fetched word that does not decode -/

namespace Sys2Proof.Machine

open Sys2Proof

/-- A running tick that is not terminated is the `Running` branch of 60_exceptions R300. -/
theorem step_running {s : State} (hrun : s.run = .running) (hterm : s.input.terminate = false) :
    step s = runningTick s := by
  simp [step, tick, hrun, hterm]

/-- A fault of the fetch or of the decoder ends the tick at once: only the run and the port fields move
(60_exceptions R305, R306). -/
theorem runningTick_error {s : State} {d : Diag} (h : fetchDecode s = .error d) :
    runningTick s = .next { s with
      run := .faulted d, inputs := s.inputs.tail, ticks := s.ticks + 1,
      out := { redraw := none, soundActive := none, fault := some d } } := by
  simp only [runningTick, h, raise_eq, finishTick]
  exact congrArg Host.Outcome.next (endTick_faulted rfl)

/-- A fetch inside memory whose word no instruction decodes from is a DecodeFailure that carries the word and pc
(30_encoding R87). -/
theorem fetchDecode_of_undecodable {s : State} (hpc : s.pc.toNat + 1 ≤ 0xFFF)
    (hdec : ∀ i, decodeWord s.fetchWord ≠ .ok i) :
    fetchDecode s = .error { reason := .decodeFailure, addr := s.pc, word := some s.fetchWord } := by
  cases h : fetchDecode s with
  | ok i => exact absurd (fetchDecode_ok h).2 (hdec i)
  | error d =>
    obtain ⟨hfetch, -⟩ | ⟨-, -, rfl⟩ := fetchDecode_error h
    · simp [(checkFetch_iff s.pc).mpr hpc] at hfetch
    · rfl

/-- Settles O11: of the ways a fetch can end, only the DecodeFailure is left, and the tick ends on its fault. -/
theorem decodeFailureFaultsWithItsWord : Obligations.DecodeFailureFaultsWithItsWord := by
  rintro s w hrun hterm hpc rfl hdec
  rw [step_running hrun hterm]
  exact runningTick_error (fetchDecode_of_undecodable hpc hdec)

end Sys2Proof.Machine

/-! ## Control flow (40_control_flow): skips, jumps, calls and returns -/

namespace Sys2Proof

/-- The decoder gives back every instruction from its word: the cases are the arms of R86, the opcode's own ones and
the groups 8xyN and FxNN. -/
theorem decodeWord_encode (i : Instr) : decodeWord (encode i) = .ok i := by
  cases i
  case cls | ret => rfl
  case jp | call | seImm | sneImm | seReg | ldImm | addImm | sneReg | ldI | jpV0 | rnd | drw | skp | sknp =>
    simp [encode, decodeWord]
  case ldReg | orReg | andReg | xorReg | addReg | subReg | shr | subnReg | shl => simp [encode, decodeWord, decodeAlu]
  case ldVxDt | ldVxK | ldDtVx | ldStVx | addIVx | ldFVx | ldBVx | ldMemVx | ldVxMem =>
    simp [encode, decodeWord, decodeMisc]

end Sys2Proof

namespace Sys2Proof.Machine

open Sys2Proof

section
variable (s : State)

/-- A skip on a condition that holds of the state, as SE and SKP make it. -/
theorem skipIf_decide (p : Prop) [Decidable p] :
    skipIf (decide p) s = .next { s with pc := if p then s.pc + 4 else s.pc + 2 } := by
  simp [skipIf_eq, State.setPc]

/-- A skip on a condition that fails, as SNE and SKNP make it: the two targets change places. -/
theorem skipIf_not_decide (p : Prop) [Decidable p] :
    skipIf (!decide p) s = .next { s with pc := if p then s.pc + 2 else s.pc + 4 } := by
  by_cases h : p <;> simp [skipIf_eq, State.setPc, h]

/-- Every skip instruction is SkipIf on a condition that is fixed before memory is (R110): it compares registers,
immediates and keys. -/
theorem exec_skip_eq_skipIf {i : Instr} {x y : RegIdx} {kk : Byte}
    (hi : i ∈ [.seImm x kk, .sneImm x kk, .seReg x y, .sneReg x y, .skp x, .sknp x]) :
    ∃ c : Bool, ∀ m : Memory, exec i { s with mem := m } = skipIf c { s with mem := m } := by
  simp only [List.mem_cons, List.not_mem_nil, or_false] at hi
  obtain rfl | rfl | rfl | rfl | rfl | rfl := hi
  · exact ⟨s.reg x == kk, fun _ => rfl⟩
  · exact ⟨s.reg x != kk, fun _ => rfl⟩
  · exact ⟨s.reg x == s.reg y, fun _ => rfl⟩
  · exact ⟨s.reg x != s.reg y, fun _ => rfl⟩
  · exact ⟨s.keyPressed (lowNibble (s.reg x)), fun _ => rfl⟩
  · exact ⟨!s.keyPressed (lowNibble (s.reg x)), fun _ => rfl⟩

/-- The address operand keeps its value: the zero extension of R83. -/
@[simp] theorem toNat_addrOperand (nnn : Addr) : (addrOperand nnn).toNat = nnn.toNat :=
  BitVec.toNat_setWidth_of_le (by decide)

variable {s}

/-- CALL with a free slot (R116). -/
theorem exec_call_of_lt (nnn : Addr) (h : s.sp.val < 16) :
    exec (.call nnn) s = .next { s with
      stack := s.stack.set s.sp.val (s.pc + 2) h, sp := ⟨s.sp.val + 1, by omega⟩, pc := addrOperand nnn } := by
  have hpush : s.push (s.pc + 2) = some { s with
      stack := s.stack.set s.sp.val (s.pc + 2) h, sp := ⟨s.sp.val + 1, by omega⟩ } := dif_pos h
  simp only [exec, execCall, hpush, State.setPc]

/-- CALL on a full stack (R116). -/
theorem exec_call_of_full (nnn : Addr) (h : s.sp.val = 16) :
    exec (.call nnn) s = .next (faultState (.call nnn) .stackOverflow s) := by
  have hpush : s.push (s.pc + 2) = none := dif_neg (by omega)
  simp only [exec, execCall, hpush, raiseBy_eq, faultState]

/-- RET with an occupied slot (R117): the slot keeps its value. -/
theorem exec_ret_of_pos (h : 0 < s.sp.val) :
    exec .ret s = .next { s with
      sp := ⟨s.sp.val - 1, by omega⟩, pc := s.stack[s.sp.val - 1]'(by omega) } := by
  have hpop : s.pop = some (s.stack[s.sp.val - 1]'(by omega), { s with sp := ⟨s.sp.val - 1, by omega⟩ }) := dif_pos h
  simp only [exec, execRet, hpop, State.setPc]

/-- RET on an empty stack (R117). -/
theorem exec_ret_of_empty (h : s.sp.val = 0) : exec .ret s = .next (faultState .ret .stackUnderflow s) := by
  have hpop : s.pop = none := dif_neg (by omega)
  simp only [exec, execRet, hpop, raiseBy_eq, faultState]

end

/-- Settles O26: the condition is chosen before memory, and SkipIf only moves pc. -/
theorem skipsNeverLookAtTheSkippedWord : Obligations.SkipsNeverLookAtTheSkippedWord := by
  rintro i s ⟨x, y, kk, hi⟩
  obtain ⟨c, hc⟩ := exec_skip_eq_skipIf s hi
  exact ⟨c, fun m => (hc m).trans (skipIf_eq _ c)⟩

/-- Settles O24: SE and SNE are SkipIf on the comparison with kk and on its negation. -/
theorem skipsOnImmediate : Obligations.SkipsOnImmediate := fun x kk s =>
  ⟨decodeWord_encode (.seImm x kk), decodeWord_encode (.sneImm x kk),
    skipIf_decide s (s.reg x = kk), skipIf_not_decide s (s.reg x = kk)⟩

/-- Settles O25: SE and SNE are SkipIf on the comparison of the registers and on its negation. -/
theorem skipsOnRegisters : Obligations.SkipsOnRegisters := fun x y s =>
  ⟨decodeWord_encode (.seReg x y), decodeWord_encode (.sneReg x y),
    skipIf_decide s (s.reg x = s.reg y), skipIf_not_decide s (s.reg x = s.reg y)⟩

/-- Settles O27: the new pc is the address operand. -/
theorem jumpSetsPc : Obligations.JumpSetsPc := fun nnn _ =>
  ⟨decodeWord_encode (.jp nnn), _, rfl, toNat_addrOperand nnn, rfl⟩

/-- Settles O28: a free slot and a full stack are the two cases of CALL. -/
theorem callPushesAndJumps : Obligations.CallPushesAndJumps := by
  intro nnn s
  refine ⟨decodeWord_encode (.call nnn), fun h => ⟨_, exec_call_of_lt nnn h, ?_, ?_, rfl, ?_, rfl⟩,
    exec_call_of_full nnn⟩
  · exact Vector.getElem_set_self h
  · exact fun j hj hne => Vector.getElem_set_ne h hj hne.symm
  · exact toNat_addrOperand nnn

/-- Settles O29: an occupied slot and an empty stack are the two cases of RET. -/
theorem returnPops : Obligations.ReturnPops :=
  ⟨decodeWord_encode .ret, fun _ => ⟨fun h => ⟨_, exec_ret_of_pos h, rfl, rfl, rfl⟩, exec_ret_of_empty⟩⟩

end Sys2Proof.Machine

/-! ## ALU (41_alu): immediate loads, bitwise operations, sums, differences and shifts -/

namespace Sys2Proof.Machine

open Sys2Proof

/-- Moving on to the next instruction keeps the registers. -/
@[simp] theorem State.reg_advance (s : State) (x : RegIdx) : s.advance.reg x = s.reg x := rfl

/-- A register write that ends in pc + 2 writes that register only: the frame of the instructions without a flag. -/
theorem writesOneReg_setReg_advance (s : State) (x : RegIdx) (b : Byte) :
    WritesOneReg s (s.setReg x b).advance x b :=
  ⟨s.reg_setReg_same x b, fun _ h => s.reg_setReg_other b h, rfl⟩

/-- The frame of the flag writers: `WriteRF` that ends in pc + 2 leaves the numbers of its result and its flag, and
P_VF_DEST chooses between them when x is VF (R140). -/
theorem writesResultAndFlag_writeRF_advance (s : State) (x : RegIdx) {r f : Byte} {m n : Nat}
    (hr : r.toNat = m) (hf : f.toNat = n) : WritesResultAndFlag s (s.writeRF x r f).advance x m n := by
  subst hr hf
  refine ⟨fun hx => ?_, ?_, fun q hqx hqf => ?_, ?_⟩
  · cases h : s.params.vfDest <;> simp [State.reg_writeRF, h, hx, Ne.symm hx]
  · rintro rfl
    cases h : s.params.vfDest <;> simp [State.reg_writeRF, h]
  · cases h : s.params.vfDest <;> simp [State.reg_writeRF, h, hqx, hqf]
  · rw [State.writeRF_eq]; rfl

/-- A flag is the number 1 or 0 (10_state R26). -/
theorem toNat_flagByte (p : Prop) [Decidable p] : (flagByte (decide p)).toNat = if p then 1 else 0 := by
  by_cases h : p <;> simp [flagByte, h]

section
variable (a b : Byte)

theorem toNat_carryFlag : (carryFlag a b).toNat = if a.toNat + b.toNat > 255 then 1 else 0 := toNat_flagByte _

theorem toNat_noBorrowFlag : (noBorrowFlag a b).toNat = if a.toNat ≥ b.toNat then 1 else 0 := toNat_flagByte _

theorem toNat_addMod : (addMod a b).toNat = (a.toNat + b.toNat) % 256 := by
  simp [addMod]

theorem toNat_subMod : (subMod a b).toNat = (a.toNat + 256 - b.toNat) % 256 := by
  simp [subMod]

/-- The bit SHR loses is the parity (R149). -/
theorem toNat_shrFlag : (shrFlag a).toNat = a.toNat % 2 := by
  simp [shrFlag]

/-- The bit SHL loses is the one of weight 128 (R151). -/
theorem toNat_shlFlag : (shlFlag a).toNat = a.toNat / 128 := by
  have hbit : a.toNat / 128 < 2 := by omega
  simp [shlFlag, Nat.shiftRight_eq_div_pow, Nat.mod_eq_of_lt hbit]

end

/-- Settles O36: `WriteRF` leaves the sum and the carry. -/
theorem addWithCarryFlag : Obligations.AddWithCarryFlag := fun x y s =>
  ⟨decodeWord_encode (.addReg x y), _, rfl,
    writesResultAndFlag_writeRF_advance s x (toNat_addMod _ _) (toNat_carryFlag _ _)⟩

/-- Settles O37: SUB and SUBN leave a difference and its no-borrow flag, with the operands exchanged. -/
theorem subtractWithNoBorrowFlag : Obligations.SubtractWithNoBorrowFlag := fun x y s =>
  ⟨decodeWord_encode (.subReg x y), decodeWord_encode (.subnReg x y),
    ⟨_, rfl, writesResultAndFlag_writeRF_advance s x (toNat_subMod _ _) (toNat_noBorrowFlag _ _)⟩,
    ⟨_, rfl, writesResultAndFlag_writeRF_advance s x (toNat_subMod _ _) (toNat_noBorrowFlag _ _)⟩⟩

/-- Settles O38: SHR halves and SHL doubles modulo 256, each with its lost bit; no meaning reads y. -/
theorem shiftsPutTheLostBitInVF : Obligations.ShiftsPutTheLostBitInVF := by
  intro x y s
  have hhalf : (s.reg x >>> 1).toNat = (s.reg x).toNat / 2 := by simp [Nat.shiftRight_one]
  have hdouble : (s.reg x <<< 1).toNat = (s.reg x).toNat * 2 % 256 := by simp [Nat.shiftLeft_eq]
  exact ⟨decodeWord_encode (.shr x y), decodeWord_encode (.shl x y),
    ⟨_, rfl, writesResultAndFlag_writeRF_advance s x hhalf (toNat_shrFlag _)⟩,
    ⟨_, rfl, writesResultAndFlag_writeRF_advance s x hdouble (toNat_shlFlag _)⟩⟩

/-- Settles O32: the immediate is the one register write. -/
theorem loadImmediate : Obligations.LoadImmediate := fun x kk s =>
  ⟨decodeWord_encode (.ldImm x kk), _, rfl, writesOneReg_setReg_advance s x kk⟩

/-- Settles O35: the bitwise result is the one register write, so VF changes only as V[x]. -/
theorem bitwiseWithoutFlag : Obligations.BitwiseWithoutFlag := fun x y s =>
  ⟨decodeWord_encode (.orReg x y), decodeWord_encode (.andReg x y), decodeWord_encode (.xorReg x y),
    ⟨_, rfl, writesOneReg_setReg_advance s x _⟩, ⟨_, rfl, writesOneReg_setReg_advance s x _⟩,
    ⟨_, rfl, writesOneReg_setReg_advance s x _⟩⟩

end Sys2Proof.Machine

/-! ## Index register (42_index_memory): loading I with an address and with a glyph's address -/

namespace Sys2Proof.Machine

open Sys2Proof

/-- The low nibble of a byte is its value modulo 16. -/
@[simp] theorem toNat_lowNibble (b : Byte) : (lowNibble b).toNat = b.toNat % 16 := by
  simp [lowNibble]

/-- A glyph is five bytes long and the font starts at address 0, so no digit's address wraps around (R172). -/
@[simp] theorem toNat_glyphAddress (digit : RegIdx) : (glyphAddress digit).toNat = digit.toNat * 5 := by
  have hfits : digit.toNat * 5 < 65536 := by omega
  simp [glyphAddress, hfits]

/-- Settles O40: the new I is the address operand. -/
theorem loadIndex : Obligations.LoadIndex := fun nnn _ =>
  ⟨decodeWord_encode (.ldI nnn), _, rfl, toNat_addrOperand nnn, rfl, rfl⟩

/-- Settles O42: the new I is the glyph address of the digit in the low nibble. -/
theorem fontAddress : Obligations.FontAddress := by
  intro x s
  have haddr : (glyphAddress (lowNibble (s.reg x))).toNat = (s.reg x).toNat % 16 * 5 := by simp
  exact ⟨decodeWord_encode (.ldFVx x), _, rfl, haddr, rfl, rfl⟩

end Sys2Proof.Machine

/-! ## Input, timers and random bytes (44_input_timer_random): the key skips, the timer copies and RND -/

namespace Sys2Proof.Machine

open Sys2Proof

section
variable (s : State)

/-- The button a byte names is its value modulo 16, so every byte names a valid one (R211). -/
theorem keyPressed_lowNibble (b : Byte) :
    s.keyPressed (lowNibble b) = s.input.keys.getLsbD (b.toNat % 16) := by
  rw [State.keyPressed, toNat_lowNibble]

/-- SKP is SkipIf on the snapshot's bit for the named button (R211). -/
theorem exec_skp (x : RegIdx) :
    exec (.skp x) s = skipIf (decide (s.input.keys.getLsbD ((s.reg x).toNat % 16) = true)) s := by
  rw [Bool.decide_eq_true, ← keyPressed_lowNibble]; rfl

/-- SKNP is SkipIf on that bit's negation (R212). -/
theorem exec_sknp (x : RegIdx) :
    exec (.sknp x) s = skipIf (!decide (s.input.keys.getLsbD ((s.reg x).toNat % 16) = true)) s := by
  rw [Bool.decide_eq_true, ← keyPressed_lowNibble]; rfl

end

/-- Settles O52: SKP and SKNP are SkipIf on the named button and on its negation. -/
theorem skipsOnKey : Obligations.SkipsOnKey := fun x s =>
  ⟨decodeWord_encode (.skp x), decodeWord_encode (.sknp x),
    (exec_skp s x).trans (skipIf_decide s _), (exec_sknp s x).trans (skipIf_not_decide s _)⟩

/-- Settles O54: the copy from DT is the one register write, and the copies into DT and ST read V[x]. -/
theorem timerCopies : Obligations.TimerCopies := fun x s =>
  ⟨decodeWord_encode (.ldVxDt x), decodeWord_encode (.ldDtVx x), decodeWord_encode (.ldStVx x),
    ⟨_, rfl, writesOneReg_setReg_advance s x s.dt⟩, rfl, rfl⟩

/-- Settles O55: the masked byte is the one register write, and the mask clears every bit outside kk. -/
theorem randomByteIsMasked : Obligations.RandomByteIsMasked := by
  intro x kk s
  obtain ⟨hreg, hframe⟩ := writesOneReg_setReg_advance s x (s.input.randByte &&& kk)
  refine ⟨decodeWord_encode (.rnd x kk), _, rfl, ⟨hreg, hframe⟩, fun b hb => ?_⟩
  rw [hreg, BitVec.getLsbD_and, hb, Bool.and_false]

end Sys2Proof.Machine

/-! ## Execute (60_exceptions R300 to R305): an instruction either faults by its rule or has its effect -/

namespace Sys2Proof.Machine

open Sys2Proof

/-- The state after an instruction that does not fault. `exec_cases` ties it to `exec`; where the instruction faults
its value is not used. -/
def effect (i : Instr) (s : State) : State :=
  match i with
  | .cls => ((s.setFb Framebuffer.clear).setDirty true).advance
  | .ret => { s with sp := ⟨s.sp.val - 1, by omega⟩, pc := s.stack[s.sp.val - 1]'(by omega) }
  | .jp nnn => s.setPc (addrOperand nnn)
  | .call nnn => { s with
      stack := s.stack.setIfInBounds s.sp.val (s.pc + 2), sp := s.sp + 1, pc := addrOperand nnn }
  | .seImm x kk => s.setPc (if s.reg x == kk then s.pc + 4 else s.pc + 2)
  | .sneImm x kk => s.setPc (if s.reg x != kk then s.pc + 4 else s.pc + 2)
  | .seReg x y => s.setPc (if s.reg x == s.reg y then s.pc + 4 else s.pc + 2)
  | .sneReg x y => s.setPc (if s.reg x != s.reg y then s.pc + 4 else s.pc + 2)
  | .ldImm x kk => (s.setReg x kk).advance
  | .addImm x kk => (s.setReg x (addMod (s.reg x) kk)).advance
  | .ldReg x y => (s.setReg x (s.reg y)).advance
  | .orReg x y => (s.setReg x (s.reg x ||| s.reg y)).advance
  | .andReg x y => (s.setReg x (s.reg x &&& s.reg y)).advance
  | .xorReg x y => (s.setReg x (s.reg x ^^^ s.reg y)).advance
  | .addReg x y => (s.writeRF x (addMod (s.reg x) (s.reg y)) (carryFlag (s.reg x) (s.reg y))).advance
  | .subReg x y => (s.writeRF x (subMod (s.reg x) (s.reg y)) (noBorrowFlag (s.reg x) (s.reg y))).advance
  | .shr x _ => (s.writeRF x (s.reg x >>> 1) (shrFlag (s.reg x))).advance
  | .subnReg x y => (s.writeRF x (subMod (s.reg y) (s.reg x)) (noBorrowFlag (s.reg y) (s.reg x))).advance
  | .shl x _ => (s.writeRF x (s.reg x <<< 1) (shlFlag (s.reg x))).advance
  | .ldI nnn => (s.setIndex (addrOperand nnn)).advance
  | .jpV0 nnn => s.setPc (BitVec.ofNat 16 (jumpV0Target nnn s))
  | .rnd x kk => (s.setReg x (s.input.randByte &&& kk)).advance
  | .drw x y n => (((s.setFb (drawSprite x y n s).fb).setReg vf (flagByte (drawSprite x y n s).collision)).setDirty
      (s.dirty || (drawSprite x y n s).changed)).advance
  | .skp x => s.setPc (if s.keyPressed (lowNibble (s.reg x)) then s.pc + 4 else s.pc + 2)
  | .sknp x => s.setPc (if !s.keyPressed (lowNibble (s.reg x)) then s.pc + 4 else s.pc + 2)
  | .ldVxDt x => (s.setReg x s.dt).advance
  | .ldVxK x => s.setRun (.awaitingKey x)
  | .ldDtVx x => (s.setDt (s.reg x)).advance
  | .ldStVx x => (s.setSt (s.reg x)).advance
  | .addIVx x => (s.setIndex (BitVec.ofNat 16 (indexSum x s))).advance
  | .ldFVx x => (s.setIndex (glyphAddress (lowNibble (s.reg x)))).advance
  | .ldBVx x => (s.writeBytes s.index.toNat (bcdDigits (s.reg x))).advance
  | .ldMemVx x => (s.writeBytes s.index.toNat (s.lowRegs x)).advance
  | .ldVxMem x => (s.loadRegs x).advance

/-- A block of `x + 1` bytes from `a` passes the range check when its last byte does. -/
theorem checkRange_blockLength_iff (a : Nat) (x : RegIdx) :
    checkRange a (blockLength x) = true ↔ ¬ a + x.toNat > 0xFFF := by
  rw [checkRange_iff, blockLength]
  omega

/-- The range check of a draw in numbers; no check for n = 0. -/
theorem spriteInRange_iff (n : BitVec 4) (s : State) :
    spriteInRange n s = true ↔ n = 0 ∨ s.index.toNat + n.toNat - 1 ≤ 0xFFF := by
  rw [spriteInRange, Bool.or_eq_true, checkRange_iff, beq_iff_eq]

/-- What an execute can do: the fault of the instruction's rule, which leaves everything but the run, or its effect. -/
theorem exec_cases (i : Instr) (s : State) :
    (faultsWhen i s ∧ ∃ r, faultOf i = some r ∧ exec i s = .next (faultState i r s))
    ∨ (¬ faultsWhen i s ∧ exec i s = .next (effect i s)) := by
  cases i
  case call nnn =>
    by_cases hsp : s.sp.val = 16
    · exact .inl ⟨hsp, _, rfl, exec_call_of_full nnn hsp⟩
    · have hlt : s.sp.val < 16 := by omega
      have hsp1 : s.sp + 1 = ⟨s.sp.val + 1, by omega⟩ := Fin.ext (by simp [Fin.val_add]; omega)
      refine .inr ⟨hsp, (exec_call_of_lt nnn hlt).trans ?_⟩
      simp [effect, hsp1, Vector.setIfInBounds, Vector.set, Array.setIfInBounds, hlt]
  case ret =>
    by_cases hsp : s.sp.val = 0
    · exact .inl ⟨hsp, _, rfl, exec_ret_of_empty hsp⟩
    · exact .inr ⟨hsp, exec_ret_of_pos (by omega)⟩
  case jpV0 nnn =>
    by_cases hr : nnn.toNat + (s.reg 0).toNat > 0xFFF
    · exact .inl ⟨hr, _, rfl, if_pos hr⟩
    · exact .inr ⟨hr, if_neg hr⟩
  case addIVx x =>
    by_cases hr : s.index.toNat + (s.reg x).toNat > 0xFFFF
    · exact .inl ⟨hr, _, rfl, if_pos hr⟩
    · exact .inr ⟨hr, if_neg hr⟩
  case ldBVx x =>
    have hc : checkRange s.index.toNat 3 = true ↔ ¬ s.index.toNat + 2 > 0xFFF := by rw [checkRange_iff]; omega
    by_cases hr : s.index.toNat + 2 > 0xFFF
    · exact .inl ⟨hr, _, rfl, if_neg (mt hc.mp (not_not_intro hr))⟩
    · exact .inr ⟨hr, if_pos (hc.mpr hr)⟩
  case ldMemVx x | ldVxMem x =>
    have hc := checkRange_blockLength_iff s.index.toNat x
    by_cases hr : s.index.toNat + x.toNat > 0xFFF
    · exact .inl ⟨hr, _, rfl, if_neg (mt hc.mp (not_not_intro hr))⟩
    · exact .inr ⟨hr, if_pos (hc.mpr hr)⟩
  case drw x y n =>
    by_cases hr : n = 0 ∨ s.index.toNat + n.toNat - 1 ≤ 0xFFF
    · exact .inr ⟨fun hf => hr.elim hf.1 (not_le_of_gt hf.2), if_pos ((spriteInRange_iff n s).mpr hr)⟩
    · obtain ⟨hn, hlen⟩ := not_or.mp hr
      exact .inl ⟨⟨hn, not_le.mp hlen⟩, _, if_neg hn, if_neg (mt (spriteInRange_iff n s).mp hr)⟩
  all_goals exact .inr ⟨id, rfl⟩

section
variable {i : Instr} {s t : State}

/-- An instruction whose exception line does not apply has its effect. -/
theorem exec_of_not_faultsWhen (h : ¬ faultsWhen i s) : exec i s = .next (effect i s) := by
  obtain ⟨hf, -⟩ | ⟨-, he⟩ := exec_cases i s
  · exact absurd hf h
  · exact he

/-- An instruction whose exception line applies faults for its one reason. -/
theorem exec_of_faultsWhen {r : FaultReason} (h : faultsWhen i s) (hr : faultOf i = some r) :
    exec i s = .next (faultState i r s) := by
  obtain ⟨-, r', hr', he⟩ | ⟨hf, -⟩ := exec_cases i s
  · rwa [Option.some.inj (hr.symm.trans hr')]
  · exact absurd h hf

/-- The inversion of `exec_cases`: what the answer of an execute can be. -/
theorem exec_eq_next (h : exec i s = .next t) :
    (faultsWhen i s ∧ ∃ r, faultOf i = some r ∧ t = faultState i r s) ∨ (¬ faultsWhen i s ∧ t = effect i s) := by
  obtain ⟨hf, r, hr, he⟩ | ⟨hf, he⟩ := exec_cases i s
  · exact .inl ⟨hf, r, hr, Host.Outcome.next.inj (h.symm.trans he)⟩
  · exact .inr ⟨hf, Host.Outcome.next.inj (h.symm.trans he)⟩

end

/-- Only Fx0A moves the run without a fault (44_input_timer_random R213). -/
theorem effect_run (i : Instr) (s : State) :
    (effect i s).run = match i with
      | .ldVxK x => .awaitingKey x
      | _ => s.run := by
  cases i <;> simp [effect]

/-- An effect leaves a live run live. -/
theorem effect_run_isFaulted (i : Instr) {s : State} (h : s.run.isFaulted = false) :
    (effect i s).run.isFaulted = false := by
  rw [effect_run]
  split
  · rfl
  · exact h

/-- A fault's reason, once an execute has left a live run faulted. -/
theorem exec_faulted {i : Instr} {s t : State} (hs : s.run.isFaulted = false) (h : exec i s = .next t)
    (ht : t.run.isFaulted = true) : faultsWhen i s ∧ ∃ r, faultOf i = some r ∧ t = faultState i r s := by
  obtain hf | ⟨-, rfl⟩ := exec_eq_next h
  · exact hf
  · simp [effect_run_isFaulted i hs] at ht

/-- Settles O18: an execute that faults is the fault case of `exec_cases`. -/
theorem faultsArePreciseAndListed : Obligations.FaultsArePreciseAndListed := fun _ _ _ hs h ht =>
  (exec_faulted hs h ht).2

/-- Settles O19: the exception line separates the two cases of `exec_cases`. -/
theorem instructionsFaultExactlyWhenTheirRulesSay : Obligations.InstructionsFaultExactlyWhenTheirRulesSay := by
  intro i s hs
  refine ⟨fun ⟨t, h, ht⟩ => (exec_faulted hs h ht).1, fun hf => ?_⟩
  obtain ⟨-, r, -, he⟩ | ⟨hn, -⟩ := exec_cases i s
  · exact ⟨_, he, rfl⟩
  · exact absurd hf hn

end Sys2Proof.Machine

/-! ## Frames (10_state R22, R27, R34, R37; 20_memory R56): what an execute leaves alone -/

namespace Sys2Proof.Machine

open Sys2Proof

section
variable (s : State)

/-- The registers after a block load (42_index_memory R175). -/
theorem State.reg_loadRegs (x k : RegIdx) :
    (s.loadRegs x).reg k = if k.toNat ≤ x.toNat then s.readByte (s.index.toNat + k.toNat) else s.reg k := by
  simp [State.reg, State.loadRegs]

/-- The registers a block store stores are V0 to V[x] (42_index_memory R174). -/
@[simp] theorem State.length_lowRegs (x : RegIdx) : (s.lowRegs x).length = x.toNat + 1 := by
  have hle : x.toNat + 1 ≤ 16 := by omega
  simp [State.lowRegs, blockLength, hle]

theorem State.getElem_lowRegs (x k : RegIdx) (h : k.toNat < (s.lowRegs x).length) :
    (s.lowRegs x)[k.toNat] = s.reg k := by
  simp [State.lowRegs, State.reg]

variable {s} {t : State}

/-- What memory reads as depends on the bytes and the font only. -/
theorem State.readByte_congr (hmem : t.mem = s.mem) (hparams : t.params = s.params) (a : Nat) :
    t.readByte a = s.readByte a := by
  rw [State.readByte, State.readByte, hmem, hparams]

end

/-- A register the table of R22 does not list survives the effect. -/
theorem effect_reg {i : Instr} {r : RegIdx} (s : State) (h : writesReg i r = false) :
    (effect i s).reg r = s.reg r := by
  cases i <;> simp only [writesReg, Bool.or_eq_false_iff, beq_eq_false_iff_ne, decide_eq_false_iff_not] at h
  case addReg | subReg | shr | subnReg | shl =>
    rw [effect, State.reg_advance, State.reg_writeRF]
    cases s.params.vfDest <;> simp [h]
  case ldVxMem x => rw [effect, State.reg_advance, State.reg_loadRegs, if_neg h]
  case ldImm | addImm | ldReg | orReg | andReg | xorReg | rnd | ldVxDt => exact s.reg_setReg_other _ h
  case drw => exact State.reg_setReg_other _ _ h
  all_goals exact State.reg_congr (by simp [effect]) r

/-- Settles O21: a fault keeps every register, and an effect those the table does not list. -/
theorem executeKeepsUnlistedRegisters : Obligations.ExecuteKeepsUnlistedRegisters := by
  intro i s t r h hw
  obtain ⟨-, _, -, rfl⟩ | ⟨-, rfl⟩ := exec_eq_next h
  · rfl
  · exact effect_reg s hw

/-- An instruction that stores nothing leaves memory as it is. -/
theorem effect_mem {i : Instr} {s : State} (h : storesTo i s = none) : (effect i s).mem = s.mem := by
  cases i
  case ldBVx | ldMemVx => simp [storesTo] at h
  all_goals simp [effect]

/-- An effect keeps the font, with the other named arguments. -/
theorem effect_params (i : Instr) (s : State) : (effect i s).params = s.params := by
  cases i <;> simp [effect]

/-- A storing instruction leaves every byte outside its block as it is. -/
theorem effect_readByte_outside {i : Instr} {s : State} {a len a' : Nat} (h : storesTo i s = some (a, len))
    (ha : a' < a ∨ a + len ≤ a') : (effect i s).readByte a' = s.readByte a' := by
  cases i <;> simp only [storesTo, reduceCtorEq, Option.some.injEq, Prod.mk.injEq] at h
  case ldBVx x =>
    obtain ⟨rfl, rfl⟩ := h
    exact s.readByte_writeBytes_other _ a' (bcdDigits (s.reg x)) ha
  case ldMemVx x =>
    obtain ⟨rfl, rfl⟩ := h
    exact s.readByte_writeBytes_other _ a' (s.lowRegs x) (by rwa [State.length_lowRegs])

/-- Settles O22: a fault keeps memory, and an effect writes the block `storesTo` names only. -/
theorem executeKeepsBytesOutsideTheStore : Obligations.ExecuteKeepsBytesOutsideTheStore := by
  intro i s t h
  obtain ⟨-, _, -, rfl⟩ | ⟨-, rfl⟩ := exec_eq_next h
  · exact ⟨fun _ _ _ _ _ => rfl, fun _ => ⟨rfl, fun _ => rfl⟩⟩
  · exact ⟨fun _ _ hst _ ha => effect_readByte_outside hst ha,
      fun hst => ⟨effect_mem hst, State.readByte_congr (effect_mem hst) (effect_params i s)⟩⟩

section
variable {i : Instr} (s : State)

/-- I is written by Annn, Fx1E and Fx29 only (10_state R27). -/
theorem effect_index (h : writesIndex i = false) : (effect i s).index = s.index := by
  cases i
  case ldI | addIVx | ldFVx => cases h
  all_goals simp [effect]

/-- The stack and SP are written by 2nnn and 00EE only (40_control_flow R119). -/
theorem effect_stack (h : writesStack i = false) : (effect i s).stack = s.stack ∧ (effect i s).sp = s.sp := by
  cases i
  case call | ret => cases h
  all_goals simp [effect]

/-- DT is written by Fx15 only (44_input_timer_random R223). -/
theorem effect_dt (h : ∀ x, i ≠ .ldDtVx x) : (effect i s).dt = s.dt := by
  cases i
  case ldDtVx x => exact absurd rfl (h x)
  all_goals simp [effect]

/-- ST is written by Fx18 only (44_input_timer_random R223). -/
theorem effect_st (h : ∀ x, i ≠ .ldStVx x) : (effect i s).st = s.st := by
  cases i
  case ldStVx x => exact absurd rfl (h x)
  all_goals simp [effect]

/-- The framebuffer and the dirty flag are written by 00E0 and Dxyn only (10_state R34, R37). -/
theorem effect_screen (h : writesScreen i = false) : (effect i s).fb = s.fb ∧ (effect i s).dirty = s.dirty := by
  cases i
  case cls | drw => cases h
  all_goals simp [effect]

/-- The run is written by Fx0A only. -/
theorem effect_run_of_not_wait (h : ∀ x, i ≠ .ldVxK x) : (effect i s).run = s.run := by
  rw [effect_run]
  split
  · next x => exact absurd rfl (h x)
  · rfl

end

/-- Settles O23: a fault keeps all of it, and an effect all but what its instruction is listed to write. -/
theorem executeKeepsUnlistedSpecialState : Obligations.ExecuteKeepsUnlistedSpecialState := by
  intro i s t h
  obtain ⟨hlast, hparams, hinputs, hticks, hout⟩ := exec_keeps_environment h
  obtain ⟨-, r, -, rfl⟩ | ⟨-, rfl⟩ := exec_eq_next h
  · exact ⟨fun _ => rfl, fun _ => ⟨rfl, rfl⟩, fun _ => rfl, fun _ => rfl, fun _ => ⟨rfl, rfl⟩,
      fun _ hf => Bool.noConfusion hf, rfl, rfl, rfl, rfl, rfl⟩
  · exact ⟨effect_index s, effect_stack s, effect_dt s, effect_st s, effect_screen s,
      fun hi _ => effect_run_of_not_wait s hi, hlast, hparams, hinputs, hticks, hout⟩

/-! ## Noninterference (10_state R31, R40): the sound timer and the inputs -/

section
variable (s : State) (b : Byte) (l : List Config.TickInput) (n : Nat)

/-- The state with another sound timer, other coming inputs and another tick count: what most executes never read. -/
def State.withAside : State := { s with st := b, inputs := l, ticks := n }

theorem State.writeRF_withAside (x : RegIdx) (r f : Byte) :
    (s.withAside b l n).writeRF x r f = (s.writeRF x r f).withAside b l n := by
  cases h : s.params.vfDest <;> simp only [State.writeRF, State.withAside, h] <;> rfl

theorem State.writeBytes_withAside (a : Nat) (bs : List Byte) :
    (s.withAside b l n).writeBytes a bs = (s.writeBytes a bs).withAside b l n := by
  induction bs generalizing s a with
  | nil => rfl
  | cons c rest ih => exact ih (s.writeByte a c) (a + 1)

/-- What stands in ST after an instruction that started with `b` there: Fx18 overwrites it with `st'`. -/
def soundAfter (i : Instr) (st' b : Byte) : Byte :=
  match i with
  | .ldStVx _ => st'
  | _ => b

variable {s l n} {i : Instr}

/-- No effect reads ST, and only the effects of Ex9E, ExA1 and Cxkk read the inputs. -/
theorem effect_withAside
    (hin : (∀ x, i ≠ .skp x ∧ i ≠ .sknp x ∧ ∀ kk, i ≠ .rnd x kk) ∨ (l = s.inputs ∧ n = s.ticks)) :
    effect i (s.withAside b l n) = (effect i s).withAside (soundAfter i (effect i s).st b) l n := by
  cases i
  case addReg | subReg | shr | subnReg | shl => exact congrArg State.advance (s.writeRF_withAside b l n _ _ _)
  case ldBVx | ldMemVx => exact congrArg State.advance (s.writeBytes_withAside b l n _ _)
  case skp | sknp | rnd =>
    obtain hi | ⟨rfl, rfl⟩ := hin
    · simp at hi
    · rfl
  all_goals rfl

/-- The execute from the other state: the exception lines read neither ST nor the inputs. -/
theorem exec_withAside {t : State} (h : exec i s = .next t)
    (hin : (∀ x, i ≠ .skp x ∧ i ≠ .sknp x ∧ ∀ kk, i ≠ .rnd x kk) ∨ (l = s.inputs ∧ n = s.ticks)) :
    exec i (s.withAside b l n) = .next (t.withAside (soundAfter i t.st b) l n) := by
  have hsame : faultsWhen i (s.withAside b l n) ↔ faultsWhen i s := Iff.rfl
  obtain ⟨hf, r, hr, rfl⟩ | ⟨hf, rfl⟩ := exec_eq_next h
  · rw [exec_of_faultsWhen (hsame.mpr hf) hr]
    cases i
    case ldStVx => exact hf.elim
    all_goals rfl
  · rw [exec_of_not_faultsWhen (mt hsame.mp hf), effect_withAside b hin]

end

/-- Settles O56: another ST, with the inputs as they are. -/
theorem noInstructionReadsTheSoundTimer : Obligations.NoInstructionReadsTheSoundTimer := by
  intro i s t b h
  obtain ⟨-, -, hinputs, hticks, -⟩ := exec_keeps_environment h
  refine (exec_withAside b h (.inr ⟨rfl, rfl⟩)).trans (congrArg Host.Outcome.next ?_)
  rw [← hinputs, ← hticks]
  cases i <;> rfl

/-- Settles O57: other inputs, with ST as it is. -/
theorem onlyKeyAndRandomInstructionsReadInputs : Obligations.OnlyKeyAndRandomInstructionsReadInputs := by
  intro i s t l n hi h
  refine (exec_withAside s.st h (.inl hi)).trans (congrArg Host.Outcome.next ?_)
  have hst : soundAfter i t.st s.st = t.st := by
    unfold soundAfter
    split
    · rfl
    · next hne =>
      obtain ⟨-, -, -, hkeeps, -⟩ := executeKeepsUnlistedSpecialState i s t h
      exact (hkeeps hne).symm
  rw [hst, State.withAside]

end Sys2Proof.Machine

/-! ## The invariant (10_state R24; 40_control_flow R116): every step keeps it -/

namespace Sys2Proof.Machine

open Sys2Proof

/-- What the invariant says of the run and pc. -/
theorem State.Inv.run_pc {s : State} (hs : s.Inv) : runConsistent s.run s.pc = true := by
  obtain ⟨-, -, -, hrun⟩ := hs
  exact hrun

/-- A change of the run and of fields the invariant does not speak of keeps it, when the new run agrees with pc. -/
theorem State.Inv.of_fields {s t : State} (hs : s.Inv) (hmem : t.mem = s.mem) (hparams : t.params = s.params)
    (hpc : t.pc = s.pc) (hstack : t.stack = s.stack) (hrun : runConsistent t.run s.pc = true) : t.Inv := by
  obtain ⟨hwf, hpcle, hslots, -⟩ := hs
  exact ⟨by rwa [hmem, hparams], by rwa [hpc], by rwa [hstack], by rwa [hpc]⟩

/-- The end of a tick moves neither the run nor anything else the invariant speaks of. -/
theorem endTick_inv {s : State} (hs : s.Inv) : (endTick s).Inv := by
  cases h : s.run with
  | faulted d => rw [endTick_faulted h]; exact hs.of_fields rfl rfl rfl rfl hs.run_pc
  | running | awaitingKey | terminated =>
    rw [endTick_live (by simp [h, Run.isFaulted])]
    exact hs.of_fields rfl rfl rfl rfl hs.run_pc

/-- No instruction's own fault is FetchOutOfRange, so its diagnostic carries a word (60_exceptions R303, R306). -/
theorem faultOf_ne_fetchOutOfRange {i : Instr} {r : FaultReason} (h : faultOf i = some r) : r ≠ .fetchOutOfRange := by
  rintro rfl
  unfold faultOf at h
  split at h <;> simp at h

/-- A faulting instruction keeps the invariant: its diagnostic holds the pc it left in place. -/
theorem faultState_inv {i : Instr} {r : FaultReason} {s : State} (hs : s.Inv) (h : faultOf i = some r) :
    (faultState i r s).Inv :=
  hs.of_fields rfl rfl rfl rfl (by simp [faultState, runConsistent, faultOf_ne_fetchOutOfRange h])

/-- A fault of the fetch or the decoder keeps the invariant, too. -/
theorem fetchFault_inv {s : State} {d : Diag} (hs : s.Inv) (h : fetchDecode s = .error d) :
    ({ s with run := .faulted d } : State).Inv := by
  refine hs.of_fields rfl rfl rfl rfl ?_
  obtain ⟨-, rfl⟩ | ⟨-, -, rfl⟩ := fetchDecode_error h <;> simp [runConsistent]

/-- An effect keeps memory canonical: it stores bytes one by one, or none. -/
theorem effect_mem_wf (i : Instr) {s : State} (h : Memory.wf s.params.font s.mem = true) :
    Memory.wf s.params.font (effect i s).mem = true := by
  cases i
  case ldBVx | ldMemVx => exact s.writeBytes_wf _ _ h
  all_goals rwa [effect_mem rfl]

section
variable {s : State} (hfetch : s.pc.toNat + 1 ≤ 0xFFF)
include hfetch

/-- The pc after an instruction that goes on, 2 or 4 further (10_state R24). -/
theorem toNat_pc_add_two : (s.pc + 2).toNat = s.pc.toNat + 2 := by bv_omega

theorem toNat_pc_add_four : (s.pc + 4).toNat = s.pc.toNat + 4 := by bv_omega

/-- A skip leaves pc at most 0x1002. -/
theorem skip_pc_le (c : Bool) : (if c then s.pc + 4 else s.pc + 2).toNat ≤ 0x1002 := by
  have h2 := toNat_pc_add_two hfetch
  have h4 := toNat_pc_add_four hfetch
  split <;> omega

/-- The pc after an instruction that was fetched: a skip's at most, since jumps are checked and return addresses
follow a CALL. -/
theorem effect_pc_le {i : Instr} (hslots : ∀ j : Fin 16, s.stack[j].toNat ≤ 0x1000) (hf : ¬ faultsWhen i s) :
    (effect i s).pc.toNat ≤ 0x1002 := by
  have hadvance : (s.pc + 2).toNat ≤ 0x1002 := by rw [toNat_pc_add_two hfetch]; omega
  cases i
  case ret => exact (hslots ⟨s.sp.val - 1, by omega⟩).trans (by decide)
  case jp nnn | call nnn =>
    change (addrOperand nnn).toNat ≤ 0x1002
    rw [toNat_addrOperand]; omega
  case jpV0 nnn =>
    simp only [faultsWhen, not_lt] at hf
    simp only [effect, State.setPc_pc, jumpV0Target, BitVec.toNat_ofNat]
    omega
  case seImm | sneImm | seReg | sneReg | skp | sknp => exact skip_pc_le hfetch _
  case ldVxK => exact (show s.pc.toNat ≤ 0x1002 by omega)
  all_goals simpa [effect] using hadvance

/-- The return addresses after an instruction that was fetched: CALL pushes pc + 2. -/
theorem effect_stack_le {i : Instr} (hslots : ∀ j : Fin 16, s.stack[j].toNat ≤ 0x1000) (j : Fin 16) :
    (effect i s).stack[j].toNat ≤ 0x1000 := by
  cases hi : writesStack i with
  | false => rw [(effect_stack s hi).1]; exact hslots j
  | true =>
    cases i
    case ret => exact hslots j
    case call nnn =>
      simp only [effect, Fin.getElem_fin, Vector.getElem_setIfInBounds]
      split
      · rw [toNat_pc_add_two hfetch]; omega
      · exact hslots j
    all_goals simp [writesStack] at hi

/-- An execute of a fetched instruction keeps the invariant. -/
theorem exec_inv {i : Instr} {t : State} (hs : s.Inv) (hrun : s.run = .running) (h : exec i s = .next t) : t.Inv := by
  obtain ⟨-, r, hr, rfl⟩ | ⟨hf, rfl⟩ := exec_eq_next h
  · exact faultState_inv hs hr
  · obtain ⟨hwf, -, hslots, -⟩ := hs
    refine ⟨by rw [effect_params]; exact effect_mem_wf i hwf, effect_pc_le hfetch hslots hf,
      effect_stack_le hfetch hslots, ?_⟩
    rw [effect_run]
    split
    · exact (checkFetch_iff s.pc).mpr hfetch
    · rw [hrun]; rfl

end

/-- A poll keeps the invariant: pc was fetchable, and a press moves it on by 2 (44_input_timer_random R214). -/
theorem waitTick_inv {s : State} {x : RegIdx} (hs : s.Inv) (hrun : s.run = .awaitingKey x) : (waitTick x s).Inv := by
  unfold waitTick
  split
  · obtain ⟨hwf, -, hslots, hc⟩ := hs
    have hfetch : s.pc.toNat + 1 ≤ 0xFFF := (checkFetch_iff s.pc).mp (by simpa [hrun, runConsistent] using hc)
    have hpc : (s.pc + 2).toNat ≤ 0x1002 := by rw [toNat_pc_add_two hfetch]; omega
    exact ⟨hwf, hpc, hslots, rfl⟩
  · exact hs

/-- Settles O58: each of the five things a step can be keeps the invariant. -/
theorem everyStepKeepsTheInvariant : Obligations.EveryStepKeepsTheInvariant := by
  intro s t hs h
  obtain ⟨-, rfl⟩ | ⟨-, -, rfl⟩ | ⟨-, -, d, hd, rfl⟩ | ⟨hrun, -, i, u, hi, hu, rfl⟩ | ⟨x, hrun, -, rfl⟩ := step_cases h
  · exact hs.of_fields rfl rfl rfl rfl hs.run_pc
  · exact hs.of_fields rfl rfl rfl rfl rfl
  · exact endTick_inv (fetchFault_inv hs hd)
  · exact endTick_inv (exec_inv ((checkFetch_iff s.pc).mp (fetchDecode_ok hi).1) hs hrun hu)
  · exact endTick_inv (waitTick_inv hs hrun)

end Sys2Proof.Machine

/-! ## Encoding (30_encoding R81 to R91): both round trips, the legal words and the rows of the table -/

namespace Sys2Proof

section
variable {w : Word} {op n : BitVec 4} {kk : Byte}

/-- A format A word is the encoding of its op and address. -/
theorem encodeA_fields (hop : fieldOp w = op) : encodeA op (fieldNNN w) = w := by
  subst hop
  exact fields_A w

/-- A format XK word is the encoding of its op, x and low byte. -/
theorem encodeXK_fields (hop : fieldOp w = op) (hkk : fieldKK w = kk) : encodeXK op (fieldX w) kk = w := by
  subst hop hkk
  exact fields_XK w

/-- A format XY or XYN word is the encoding of its four nibbles. -/
theorem encodeXYN_fields (hop : fieldOp w = op) (hn : fieldN w = n) :
    encodeXYN op (fieldX w) (fieldY w) n = w := by
  subst hop hn
  exact fields_XYN w

/-- The answer `r` drops no bit of the word: an instruction it gives encodes to `w`. -/
def AnswersWord (w : Word) (r : Except DecodeReject Instr) : Prop := ∀ i, r = .ok i → encode i = w

theorem AnswersWord.ok {i : Instr} (h : encode i = w) : AnswersWord w (.ok i) := by
  rintro _ ⟨⟩
  exact h

theorem AnswersWord.error {e : DecodeReject} : AnswersWord w (.error e) := nofun

/-- A test of the decoder, with what it has found out. -/
theorem AnswersWord.ite {c : Prop} [Decidable c] {a b : Except DecodeReject Instr} (ha : c → AnswersWord w a)
    (hb : ¬ c → AnswersWord w b) : AnswersWord w (if c then a else b) := by
  split
  · exact ha ‹_›
  · exact hb ‹_›

/-- The group 8xyN, arm by arm. -/
theorem decodeAlu_answersWord (hop : fieldOp w = 0x8) : AnswersWord w (decodeAlu w) := by
  unfold decodeAlu
  iterate 9 refine .ite (fun hn => .ok (encodeXYN_fields hop hn)) fun _ => ?_
  exact .error

/-- The group FxNN, arm by arm. -/
theorem decodeMisc_answersWord (hop : fieldOp w = 0xF) : AnswersWord w (decodeMisc w) := by
  unfold decodeMisc
  iterate 9 refine .ite (fun hkk => .ok (encodeXK_fields hop hkk)) fun _ => ?_
  exact .error

end

/-- Sixteen is all the opcodes there are: what the decoder's last arm has left. -/
theorem op_eq_F (op : BitVec 4) (h0 : op ≠ 0x0) (h1 : op ≠ 0x1) (h2 : op ≠ 0x2) (h3 : op ≠ 0x3) (h4 : op ≠ 0x4)
    (h5 : op ≠ 0x5) (h6 : op ≠ 0x6) (h7 : op ≠ 0x7) (h8 : op ≠ 0x8) (h9 : op ≠ 0x9) (hA : op ≠ 0xA) (hB : op ≠ 0xB)
    (hC : op ≠ 0xC) (hD : op ≠ 0xD) (hE : op ≠ 0xE) : op = 0xF := by
  bv_omega

/-- The decoder of R86, arm by arm: the fields each arm reads and the ones it tests are the whole word. -/
theorem decodeWord_answersWord (w : Word) : AnswersWord w (decodeWord w) := by
  unfold decodeWord
  refine .ite (fun _ => .ite (fun h => .ok h.symm) fun _ => .ite (fun h => .ok h.symm) fun _ => .error) fun h0 => ?_
  refine .ite (fun h => .ok (encodeA_fields h)) fun h1 => ?_
  refine .ite (fun h => .ok (encodeA_fields h)) fun h2 => ?_
  refine .ite (fun h => .ok (encodeXK_fields h rfl)) fun h3 => ?_
  refine .ite (fun h => .ok (encodeXK_fields h rfl)) fun h4 => ?_
  refine .ite (fun h => .ite (fun hn => .ok (encodeXYN_fields h hn)) fun _ => .error) fun h5 => ?_
  refine .ite (fun h => .ok (encodeXK_fields h rfl)) fun h6 => ?_
  refine .ite (fun h => .ok (encodeXK_fields h rfl)) fun h7 => ?_
  refine .ite decodeAlu_answersWord fun h8 => ?_
  refine .ite (fun h => .ite (fun hn => .ok (encodeXYN_fields h hn)) fun _ => .error) fun h9 => ?_
  refine .ite (fun h => .ok (encodeA_fields h)) fun hA => ?_
  refine .ite (fun h => .ok (encodeA_fields h)) fun hB => ?_
  refine .ite (fun h => .ok (encodeXK_fields h rfl)) fun hC => ?_
  refine .ite (fun h => .ok (encodeXYN_fields h rfl)) fun hD => ?_
  refine .ite (fun h => .ite (fun hkk => .ok (encodeXK_fields h hkk)) fun _ =>
    .ite (fun hkk => .ok (encodeXK_fields h hkk)) fun _ => .error) fun hE => ?_
  exact decodeMisc_answersWord (op_eq_F _ h0 h1 h2 h3 h4 h5 h6 h7 h8 h9 hA hB hC hD hE)

/-- The word of every instruction lies in its row, by the mask of the row. -/
theorem row_matches_encode (i : Instr) : i.row.matches (encode i) = true := by
  suffices h : Laws.Opcode.Statement i from h.1
  refine Laws.Opcode.of_masked i ?_
  cases i
  case cls | ret => rfl
  case jp | call | ldI | jpV0 => exact Laws.Opcode.encodeA_op _ _
  case seImm | sneImm | ldImm | addImm | rnd => exact Laws.Opcode.encodeXK_op _ _ _
  case drw => exact Laws.Opcode.encodeXYN_op _ _ _ _
  case seReg | ldReg | orReg | andReg | xorReg | addReg | subReg | shr | subnReg | shl | sneReg =>
    exact Laws.Opcode.encodeXYN_minor _ _ _ _
  all_goals exact Laws.Opcode.encodeXK_minor _ _ _

/-- Settles O2: the earlier round trip, whose hypothesis every instruction meets. -/
theorem decodeOfEncodeIsTheInstruction : Obligations.DecodeOfEncodeIsTheInstruction := fun i _ => decodeWord_encode i

/-- Settles O3: the decoder answers with the word's own instruction, and every instruction's word lies in its row. -/
theorem encodeOfDecodeIsTheWord : Obligations.EncodeOfDecodeIsTheWord := by
  intro w i h
  obtain rfl := decodeWord_answersWord w i h
  exact ⟨rfl, row_matches_encode i, Laws.Opcode.wf_all i⟩

/-- Settles O1: 15 words are encodings, and three are rejected. -/
theorem sampleWordsDecode : Obligations.SampleWordsDecode :=
  ⟨decodeWord_encode .cls, decodeWord_encode .ret, decodeWord_encode (.seReg 1 2), decodeWord_encode (.ldImm 0 0x05),
    decodeWord_encode (.addImm 0 0x03), decodeWord_encode (.shr 1 2), decodeWord_encode (.shr 1 0xF),
    decodeWord_encode (.sneReg 1 2), decodeWord_encode (.ldI 0x2F0), decodeWord_encode (.jpV0 0x300),
    decodeWord_encode (.rnd 1 0x0F), decodeWord_encode (.drw 0 1 4), decodeWord_encode (.skp 1),
    decodeWord_encode (.sknp 1), decodeWord_encode (.ldMemVx 1), rfl, rfl, rfl⟩

/-- The table has the row of every instruction. -/
theorem row_mem_opcodeRows (i : Instr) : i.row ∈ opcodeRows := by
  cases i <;> simp [opcodeRows, Instr.row]

/-- Every row of the table is an instruction's. -/
theorem exists_row_eq {r : OpcodeRow} (h : r ∈ opcodeRows) : ∃ i : Instr, r = i.row := by
  simp only [opcodeRows, List.mem_append, List.mem_map] at h
  obtain ((⟨i, -, rfl⟩ | ⟨i, -, rfl⟩) | ⟨i, -, rfl⟩) | ⟨i, -, rfl⟩ := h <;> exact ⟨i, rfl⟩

/-- The decoder answers every word that matches a row: the tests it makes are the fields the row's mask covers. -/
theorem decodes_of_row_matches {i : Instr} {w : Word} (h : i.row.matches w = true) : ∃ j, decodeWord w = .ok j := by
  rw [OpcodeRow.matches, beq_iff_eq] at h
  cases i <;> simp only [Instr.row] at h
  case cls | ret =>
    obtain rfl : w = _ := (BitVec.and_allOnes (x := w)).symm.trans h
    exact ⟨_, rfl⟩
  case jp | call | ldI | jpV0 | seImm | sneImm | ldImm | addImm | rnd | drw =>
    have hop : fieldOp w = _ := extract_of_masked h 12 4 (by decide)
    simp [decodeWord, hop]
  case seReg | sneReg | ldReg | orReg | andReg | xorReg | addReg | subReg | shr | subnReg | shl =>
    have hop : fieldOp w = _ := extract_of_masked h 12 4 (by decide)
    have hn : fieldN w = _ := extract_of_masked h 0 4 (by decide)
    simp [decodeWord, decodeAlu, hop, hn]
  all_goals
    have hop : fieldOp w = _ := extract_of_masked h 12 4 (by decide)
    have hkk : fieldKK w = _ := extract_of_masked h 0 8 (by decide)
    simp [decodeWord, decodeMisc, hop, hkk]

/-- The decoder gives an instruction for exactly the legal words. -/
theorem wordLegal_iff_decodes (w : Word) : wordLegal w = true ↔ ∃ i, decodeWord w = .ok i := by
  rw [wordLegal, List.any_eq_true]
  constructor
  · rintro ⟨r, hr, hw⟩
    obtain ⟨i, rfl⟩ := exists_row_eq hr
    exact decodes_of_row_matches hw
  · rintro ⟨i, hi⟩
    obtain rfl := decodeWord_answersWord w i hi
    exact ⟨i.row, row_mem_opcodeRows i, row_matches_encode i⟩

/-- Settles O4: what is not an instruction is, by `decodeWord_cases`, a decode failure with the word. -/
theorem decoderRejectsExactlyTheIllegalWords : Obligations.DecoderRejectsExactlyTheIllegalWords := by
  intro w
  have hlegal := wordLegal_iff_decodes w
  refine ⟨hlegal, ?_⟩
  rw [← Bool.not_eq_true, hlegal]
  obtain ⟨i, hi⟩ | he := decodeWord_cases w
  · simp [hi]
  · simp [he]

/-- Any two rows of the table ask different values of the bits both their masks cover. -/
theorem opcodeRows_pairwise_disjoint :
    opcodeRows.Pairwise fun r q => r.pattern &&& q.mask ≠ q.pattern &&& r.mask := by
  decide

/-- Settles O5: two rows that match a word agree, as the word has them, on the bits both their masks cover. -/
theorem opcodeRowsDoNotOverlap : Obligations.OpcodeRowsDoNotOverlap := by
  intro w
  have hdisjoint := opcodeRows_pairwise_disjoint.filter fun r => r.matches w
  have hmatch : ∀ r ∈ opcodeRows.filter (fun r => r.matches w), w &&& r.mask = r.pattern := by
    simp [OpcodeRow.matches]
  generalize opcodeRows.filter (fun r => r.matches w) = rows at hdisjoint hmatch ⊢
  match rows with
  | [] | [_] => simp
  | r :: q :: _ =>
    have hne := (List.pairwise_cons.mp hdisjoint).1 q (by simp)
    rw [← hmatch r (by simp), ← hmatch q (by simp)] at hne
    exact absurd (by ac_rfl) hne

end Sys2Proof

/-! ## Reset (70_reset R340 to R342): the reset state and the image -/

namespace Sys2Proof.Machine

open Sys2Proof

/-- Glyph `d` of the font lies at `5 d` of a memory that lists nothing (10_state R38). -/
theorem Memory.unlisted_glyph (font : Vector (Vector Byte 5) 16) {d j : Nat} (hd : d < 16) (hj : j < 5) :
    Memory.unlisted font (d * 5 + j) = font[d][j] := by
  have hlt : d * 5 + j < 80 := by omega
  have hdiv : (d * 5 + j) / 5 = d := by omega
  have hmod : (d * 5 + j) % 5 = j := by omega
  simp only [Memory.unlisted, dif_pos hlt, hdiv, hmod]

/-- Above the font a memory that lists nothing holds zeros (decision D16). -/
theorem Memory.unlisted_above_font (font : Vector (Vector Byte 5) 16) {a : Nat} (h : 80 ≤ a) :
    Memory.unlisted font a = 0 :=
  dif_neg (by omega)

/-- Every cell of a cleared screen is clear. -/
@[simp] theorem Framebuffer.cell_clear (px py : Nat) : Framebuffer.cell Framebuffer.clear px py = false := by
  simp [Framebuffer.cell, Framebuffer.clear]

section
variable (p : Config.Params) (t0 : Nat)

/-- The memory of the reset state reads as unlisted everywhere. -/
theorem State.readByte_blank (a : Nat) : (State.blank p t0).readByte a = Memory.unlisted p.font a := rfl

/-- The reset state meets the invariant. -/
theorem State.blank_inv : (State.blank p t0).Inv :=
  ⟨rfl, by simp [State.blank], by simp [State.blank], rfl⟩

/-- Loading an image that fits stores its bytes from 0x200. -/
theorem resetWith_of_fits {image : List Byte} (h : image.length ≤ 3584) :
    resetWith p (some image) t0 = .ok ((State.blank p t0).writeBytes 0x200 image) :=
  if_pos (decide_eq_true h)

/-- The image longer than memory above 0x200 is refused. -/
theorem resetWith_of_too_long {image : List Byte} (h : image.length > 3584) :
    resetWith p (some image) t0 = .error .tooLong :=
  if_neg (by simpa [imageFits] using h)

end

/-- A block store keeps the invariant. -/
theorem State.writeBytes_inv {s : State} (hs : s.Inv) (a : Nat) (bs : List Byte) : (s.writeBytes a bs).Inv := by
  obtain ⟨hwf, hpc, hslots, hrun⟩ := hs
  exact ⟨by simpa using s.writeBytes_wf a bs hwf, by simpa using hpc, by simpa using hslots, by simpa using hrun⟩

/-- Settles O6: every component of the reset state, memory by the two parts of what is unlisted. -/
theorem resetGivesEveryComponentItsValue : Obligations.ResetGivesEveryComponentItsValue := by
  refine ⟨fun p t0 => ⟨fun x => ?_, rfl, rfl, rfl, fun j hj => ?_, rfl, rfl, rfl, fun d j hd hj => ?_, fun a ha _ => ?_,
    Framebuffer.cell_clear, rfl, rfl, rfl⟩, rfl⟩
  · simp [State.reg, State.blank]
  · simp [State.blank]
  · rw [State.readByte_blank, Memory.unlisted_glyph p.font hd hj]
  · rw [State.readByte_blank, Memory.unlisted_above_font p.font ha]

/-- Settles O7: the image is a block store on the reset state. -/
theorem imageLoadsAtProgramBase : Obligations.ImageLoadsAtProgramBase := by
  intro p image t0 hlen
  have houtside : ∀ a, (a < 0x200 ∨ 0x200 + image.length ≤ a) →
      ((State.blank p t0).writeBytes 0x200 image).readByte a = Memory.unlisted p.font a :=
    fun a => State.readByte_writeBytes_other _ 0x200 a image
  refine ⟨_, resetWith_of_fits p t0 hlen, fun d j hd hj => ?_, fun a ha ha' => ?_, fun k hk => ?_, fun a ha _ => ?_,
    (State.blank p t0).writeBytes_wf _ _ rfl, ?_⟩
  · rw [houtside _ (by omega), Memory.unlisted_glyph p.font hd hj]
  · rw [houtside _ (by omega), Memory.unlisted_above_font p.font ha]
  · exact State.readByte_writeBytes_in _ 0x200 k image rfl hk (by unfold addrMax; omega)
  · rw [houtside _ (by omega), Memory.unlisted_above_font p.font (by omega)]
  · rw [State.writeBytes_eq]; rfl

/-- Settles O8: the two ways a load fails, and the row of R303 for both. -/
theorem unloadableImageStartsNoRun : Obligations.UnloadableImageStartsNoRun :=
  ⟨fun _ _ => rfl, fun p _ t0 h => resetWith_of_too_long p t0 h, fun _ => ⟨rfl, rfl⟩⟩

/-- Settles O59: the reset state meets the invariant, and the image is a block store on it. -/
theorem invariantHoldsAfterReset : Obligations.InvariantHoldsAfterReset := by
  refine ⟨State.blank_inv _ _, fun p image t0 s h => ?_⟩
  cases image with
  | none => cases h
  | some image =>
    by_cases hlen : image.length ≤ 3584
    · obtain rfl := Except.ok.inj ((resetWith_of_fits p t0 hlen).symm.trans h)
      exact State.writeBytes_inv (State.blank_inv p t0) _ _
    · rw [resetWith_of_too_long p t0 (not_le.mp hlen)] at h
      cases h

end Sys2Proof.Machine

/-! ## The tick (60_exceptions R300 to R326; 44_input_timer_random R214) -/

namespace Sys2Proof.Machine

open Sys2Proof

/-- A run of one step more, when its first step answers a next state. -/
theorem run_succ_of_step {M : Host.Core} {s s' : M.State} (h : M.step s = .next s') (n : Nat) :
    M.run (n + 1) s = M.run n s' := by
  rw [Host.Core.run, h]

/-- A byte is not 0 when its number is not. -/
theorem bne_zero_eq_decide (b : Byte) : (b != 0) = decide (b.toNat ≠ 0) := by
  rw [Bool.eq_iff_iff, bne_iff_ne, decide_eq_true_iff, ← BitVec.toNat_inj.ne]
  rfl

/-- A button id keeps its value as the byte a wait loads. -/
theorem toNat_keyByte (k : RegIdx) : (keyByte k).toNat = k.toNat :=
  BitVec.toNat_setWidth_of_le (by decide)

section
variable {s : State}

/-- A fetch inside memory whose word decodes. -/
theorem fetchDecode_of_decodes {i : Instr} (hpc : s.pc.toNat + 1 ≤ 0xFFF) (hdec : decodeWord s.fetchWord = .ok i) :
    fetchDecode s = .ok i := by
  simp [fetchDecode, (checkFetch_iff s.pc).mpr hpc, hdec]

/-- A fetch that passes the end of memory (20_memory R53). -/
theorem fetchDecode_past_memory (hpc : s.pc.toNat + 1 > 0xFFF) :
    fetchDecode s = .error { reason := .fetchOutOfRange, addr := s.pc, word := none } :=
  if_neg (mt (checkFetch_iff s.pc).mp (not_le.mpr hpc))

/-- The inputs of a tick depend on the listed inputs and the tick count only. -/
theorem State.input_congr {t : State} (hinputs : t.inputs = s.inputs) (hticks : t.ticks = s.ticks) :
    t.input = s.input := by
  rw [State.input, State.input, hinputs, hticks]

/-- A step of an ended run (60_exceptions R326). -/
theorem step_of_ended (h : s.run.ended = true) : step s = .next (idleTick s) := by
  cases hrun : s.run with
  | faulted | terminated => simp [step, tick, hrun]
  | running | awaitingKey => simp [hrun, Run.ended] at h

/-- A step that finds `terminate` set on a live run (R302). -/
theorem step_terminated (hlive : s.run.ended = false) (hterm : s.input.terminate = true) :
    step s = .next (terminateTick s) := by
  cases hrun : s.run with
  | running | awaitingKey => simp [step, tick, hrun, hterm]
  | faulted | terminated => simp [hrun, Run.ended] at hlive

/-- A step of a waiting run is a poll (R316). -/
theorem step_waiting {x : RegIdx} (hrun : s.run = .awaitingKey x) (hterm : s.input.terminate = false) :
    step s = .next (endTick (waitTick x s)) := by
  simp [step, tick, hrun, hterm]

/-- The end of a tick leaves the run to the execute or the poll. -/
@[simp] theorem endTick_run : (endTick s).run = s.run := by
  cases h : s.run with
  | faulted d => rw [endTick_faulted h]; exact h
  | running | awaitingKey | terminated => rw [endTick_live (by simp [h, Run.isFaulted])]; exact h

/-- A press moves pc, V[x] and the run and no other field, and no press moves nothing (R214). -/
theorem waitTick_eq (x : RegIdx) :
    ∃ v pc run, waitTick x s = { s with v := v, pc := pc, run := run } := by
  unfold waitTick
  split <;> exact ⟨_, _, _, rfl⟩

/-- A poll of a live run leaves it live. -/
theorem waitTick_run_isFaulted (x : RegIdx) (h : s.run.isFaulted = false) : (waitTick x s).run.isFaulted = false := by
  unfold waitTick
  split
  · rfl
  · exact h

end

/-- Settles O9: fetch and decode succeed, so the step is the execute and the end of the tick on its result. -/
theorem stepRunsTheDecodedInstruction : Obligations.StepRunsTheDecodedInstruction := by
  intro s i hrun hterm hpc hdec _
  obtain ⟨t, ht⟩ := exec_answers_next i s
  obtain ⟨hlast, hparams, hinputs, hticks, -⟩ := exec_keeps_environment ht
  have hstep : step s = .next (endTick t) := by
    rw [step_running hrun hterm, runningTick_ok (fetchDecode_of_decodes hpc hdec), ht, finishTick]
  refine ⟨t, ht, fun hlive => ?_, fun d hd => ?_⟩
  · rw [hstep, endTick_live hlive, State.input_congr hinputs hticks]
    simp [nextInputs, report, timerUpdate, elapsedPeriods, periodUnits, hlast, hparams, hinputs, hticks]
  · rw [hstep, endTick_faulted hd, nextInputs, hinputs, hticks]

/-- Settles O10: the fetch fails, and the tick ends on its fault. -/
theorem fetchPastMemoryFaults : Obligations.FetchPastMemoryFaults := by
  intro s hrun hterm hpc
  rw [step_running hrun hterm]
  exact runningTick_error (fetchDecode_past_memory hpc)

/-- Settles O12: the step is `terminateTick`, which writes the run and the port fields. -/
theorem terminationEndsALiveRun : Obligations.TerminationEndsALiveRun := fun _ hlive hterm =>
  step_terminated hlive hterm

/-- Settles O13, by induction on the number of ticks: an idle tick leaves the run ended. -/
theorem endedRunIgnoresEveryTick : Obligations.EndedRunIgnoresEveryTick := by
  intro n
  induction n with
  | zero => exact fun s _ => ⟨s, rfl, rfl⟩
  | succ n ih =>
    intro s hs
    obtain ⟨t, ht, hsame⟩ := ih (idleTick s) hs
    refine ⟨t, (run_succ_of_step (M := core) (step_of_ended hs) n).trans ht, ?_⟩
    exact congrArg (fun u : State => { u with inputs := s.inputs, ticks := s.ticks, out := s.out }) hsame

/-- Settles O14: the poll and then the end of the tick, which counts from the timers the poll left alone. -/
theorem waitingTickPollsForAPress : Obligations.WaitingTickPollsForAPress := by
  intro s x hrun hterm
  have hlive : (waitTick x s).run.isFaulted = false := waitTick_run_isFaulted x (by rw [hrun]; rfl)
  refine ⟨_, step_waiting hrun hterm, ?_⟩
  rw [endTick_live hlive]
  refine ⟨fun k hk => ?_, fun hk => ?_, ?_⟩
  · have hwait : waitTick x s = ((s.setReg x (keyByte k)).advance).setRun .running := by simp [waitTick, hk]
    rw [hwait]
    refine ⟨?_, fun r hr => s.reg_setReg_other (keyByte k) hr, rfl, rfl⟩
    exact (congrArg BitVec.toNat (s.reg_setReg_same x (keyByte k))).trans (toNat_keyByte k)
  · have hwait : waitTick x s = s := by simp [waitTick, hk]
    rw [hwait]
    exact ⟨rfl, rfl, rfl⟩
  · obtain ⟨v, pc, run, hwait⟩ := waitTick_eq (s := s) x
    rw [hwait]
    exact ⟨⟨countDown_toNat _ _, countDown_toNat _ _, rfl⟩, rfl, by rw [← bne_zero_eq_decide]; rfl,
      rfl, rfl, rfl, rfl, rfl, rfl⟩

/-! ## Faulting ticks -/

/-- Settles O20: a tick faults in its fetch, its decoder or its execute, and each leaves all but the run as it was. -/
theorem faultingTickChangesOnlyTheRun : Obligations.FaultingTickChangesOnlyTheRun := by
  intro s t hlive h ht
  obtain ⟨hended, -⟩ | ⟨-, -, rfl⟩ | ⟨-, -, d, hd, rfl⟩ | ⟨hrun, -, i, u, -, hu, rfl⟩ | ⟨x, hrun, -, rfl⟩ :=
    step_cases h
  · simp [hended] at hlive
  · cases ht
  · rw [endTick_faulted rfl]
    refine ⟨d, rfl, ?_, rfl, rfl⟩
    obtain ⟨-, rfl⟩ | ⟨-, -, rfl⟩ := fetchDecode_error hd <;> rfl
  · rw [endTick_run] at ht
    obtain ⟨-, r, -, rfl⟩ := exec_faulted (by rw [hrun]; rfl) hu ht
    rw [endTick_faulted rfl]
    exact ⟨_, rfl, rfl, rfl, rfl⟩
  · rw [endTick_run, waitTick_run_isFaulted x (by rw [hrun]; rfl)] at ht
    cases ht

end Sys2Proof.Machine

/-! ## The timer engine (60_exceptions R315, R317) and the fault table (R303) -/

namespace Sys2Proof.Machine

open Sys2Proof

/-- Two count-downs are one by the sum. -/
theorem countDown_countDown (t : Byte) (j k : Nat) : countDown (countDown t j) k = countDown t (j + k) := by
  apply BitVec.eq_of_toNat_eq
  simp only [countDown_toNat]
  omega

section
variable (s : State)

/-- The timestamp after an update has counted whole periods and lacks less than one to `now`. -/
theorem timerUpdate_last_le {now : Nat} (h : s.last ≤ now) :
    (timerUpdate now s).last ≤ now ∧ now < (timerUpdate now s).last + periodUnits s.params := by
  have hpos : 0 < periodUnits s.params := Nat.succ_pos _
  have hmod := Nat.mod_lt (now - s.last) hpos
  have hdiv := Nat.div_add_mod' (now - s.last) (periodUnits s.params)
  rw [timerUpdate_last, elapsedPeriods]
  omega

/-- The periods up to `later` are those an update at `now` has counted and those it has left (R317). -/
theorem elapsedPeriods_after_timerUpdate {now later : Nat} (hlater : now ≤ later) :
    elapsedPeriods s.params s.last now + elapsedPeriods s.params (timerUpdate now s).last later =
      elapsedPeriods s.params s.last later := by
  have hle : elapsedPeriods s.params s.last now ≤ elapsedPeriods s.params s.last later :=
    Nat.div_le_div_right (Nat.sub_le_sub_right hlater _)
  have hrest : elapsedPeriods s.params (timerUpdate now s).last later =
      elapsedPeriods s.params s.last later - elapsedPeriods s.params s.last now := by
    rw [timerUpdate_last, elapsedPeriods, Nat.sub_add_eq, Nat.mul_comm, Nat.sub_mul_div]
    rfl
  omega

/-- An update at an earlier time is lost in the later one (R317). -/
theorem timerUpdate_timerUpdate {now later : Nat} (hlater : now ≤ later) :
    timerUpdate later (timerUpdate now s) = timerUpdate later s := by
  have hsum := elapsedPeriods_after_timerUpdate s hlater
  let j := elapsedPeriods s.params s.last now
  let k := elapsedPeriods s.params (timerUpdate now s).last later
  calc timerUpdate later (timerUpdate now s)
    _ = { s with
          dt := countDown (countDown s.dt j) k, st := countDown (countDown s.st j) k,
          last := s.last + j * periodUnits s.params + k * periodUnits s.params } := rfl
    _ = timerUpdate later s := by
      rw [countDown_countDown, countDown_countDown, Nat.add_assoc, ← Nat.add_mul, hsum]
      rfl

end

/-- Settles O15: the elapsed periods are the `k`, with the remainder below one period. -/
theorem timerUpdateCountsCompletePeriods : Obligations.TimerUpdateCountsCompletePeriods := by
  intro s now h
  obtain ⟨hle, hlt⟩ := timerUpdate_last_le s h
  refine ⟨⟨elapsedPeriods s.params s.last now, rfl, ?_, ?_⟩, hle, hlt, rfl⟩
  · rw [timerUpdate_dt, countDown_toNat]; omega
  · rw [timerUpdate_st, countDown_toNat]; omega

/-- Settles O16, by induction on the times: each update is lost in the last one. -/
theorem timerCountIsIndependentOfTickSpacing : Obligations.TimerCountIsIndependentOfTickSpacing := by
  intro s times tm hsorted
  replace hsorted := (List.pairwise_cons.mp hsorted).2
  induction times generalizing s with
  | nil => rfl
  | cons now rest ih =>
    obtain ⟨hnow, hrest⟩ := List.pairwise_cons.mp hsorted
    calc (rest ++ [tm]).foldl (fun u now => timerUpdate now u) (timerUpdate now s)
      _ = timerUpdate tm (timerUpdate now s) := ih _ hrest
      _ = timerUpdate tm s := timerUpdate_timerUpdate s (hnow tm (by simp))

/-- Settles O17, reason by reason. -/
theorem faultCodesAndKinds : Obligations.FaultCodesAndKinds := by
  rintro ⟨reason, addr, word⟩
  cases reason <;> rfl

end Sys2Proof.Machine

/-! ## The instructions that can fault and the copies: one rule and its exception line each -/

namespace Sys2Proof.Machine

open Sys2Proof

/-- Settles O31: the sum is the target, or passes 0xFFF. -/
theorem jumpWithV0 : Obligations.JumpWithV0 := by
  refine fun nnn s => ⟨fun h => ⟨_, exec_of_not_faultsWhen (not_lt.mpr h), ?_, rfl⟩, fun h => exec_of_faultsWhen h rfl⟩
  simp only [effect, State.setPc_pc, jumpV0Target, BitVec.toNat_ofNat]
  omega

/-- Settles O41: the sum fits I, or passes 0xFFFF. -/
theorem addToIndex : Obligations.AddToIndex := by
  refine fun x s =>
    ⟨fun h => ⟨_, exec_of_not_faultsWhen (not_lt.mpr h), ?_, rfl, rfl⟩, fun h => exec_of_faultsWhen h rfl⟩
  simp only [effect, State.advance_index, State.setIndex_index, indexSum, BitVec.toNat_ofNat]
  omega

/-- Settles O51: the exception line of DRW, which n = 0 does not meet. -/
theorem drawPastMemoryFaults : Obligations.DrawPastMemoryFaults := fun _ _ _ _ hn h =>
  exec_of_faultsWhen ⟨hn, h⟩ (if_neg hn)

/-- Settles O53: the wait is the one change. -/
theorem keyWaitHoldsPc : Obligations.KeyWaitHoldsPc := fun x _ => exec_of_not_faultsWhen (i := .ldVxK x) id

/-- Settles O33: the sum is the one register write. -/
theorem addImmediateWithoutFlag : Obligations.AddImmediateWithoutFlag := fun x kk s =>
  ⟨_, _, rfl, toNat_addMod (s.reg x) kk, writesOneReg_setReg_advance s x _⟩

/-- Settles O34: the copy is the one register write. -/
theorem copyRegister : Obligations.CopyRegister := fun x y s => ⟨_, rfl, writesOneReg_setReg_advance s x (s.reg y)⟩

/-- Settles O48: the cleared screen and the dirty flag are the changes. -/
theorem clearScreen : Obligations.ClearScreen :=
  ⟨decodeWord_encode .cls, fun _ => ⟨_, rfl, Framebuffer.cell_clear, rfl, rfl, rfl⟩⟩

/-- A byte below 2 is a flag. -/
theorem eq_zero_or_one_of_toNat_lt {b : Byte} (h : b.toNat < 2) : b = 0 ∨ b = 1 := by bv_omega

/-- `WriteRF` leaves its flag in VF, unless VF is the destination under ResultWins (41_alu R140). -/
theorem State.reg_vf_writeRF (s : State) {x : RegIdx} (r f : Byte) (h : x ≠ vf ∨ s.params.vfDest = .flagWins) :
    (s.writeRF x r f).reg vf = f := by
  rw [State.reg_writeRF]
  obtain hx | hw := h
  · cases s.params.vfDest <;> simp [hx.symm]
  · simp [hw]

/-- A draw leaves its collision in VF (43_blitter R194). -/
theorem reg_vf_effect_drw (x y : RegIdx) (n : BitVec 4) (s : State) :
    (effect (.drw x y n) s).reg vf = flagByte (drawSprite x y n s).collision :=
  State.reg_setReg_same _ vf _

/-- Settles O39: VF holds the flag, which is made from a condition or is one bit. -/
theorem writtenFlagIsZeroOrOne : Obligations.WrittenFlagIsZeroOrOne := by
  intro i s t x y n hi hx h ht
  obtain ⟨-, r, -, rfl⟩ | ⟨-, rfl⟩ := exec_eq_next h
  · cases ht
  · by_cases hdrw : i = .drw x y n
    · rw [hdrw, reg_vf_effect_drw]
      exact flagByte_cases _
    · have hvf : x ≠ vf ∨ s.params.vfDest = .flagWins := hx.imp_right fun h => h.resolve_right hdrw
      simp only [List.mem_cons, List.not_mem_nil, hdrw, or_false] at hi
      obtain rfl | rfl | rfl | rfl | rfl := hi
      all_goals rw [effect, State.reg_advance, s.reg_vf_writeRF _ _ hvf]
      · exact flagByte_cases _
      · exact flagByte_cases _
      · exact eq_zero_or_one_of_toNat_lt (by rw [toNat_shrFlag]; omega)
      · exact flagByte_cases _
      · exact eq_zero_or_one_of_toNat_lt (by rw [toNat_shlFlag]; omega)

end Sys2Proof.Machine

/-! ## Nested calls (40_control_flow R116, R117) -/

namespace Sys2Proof.Machine

open Sys2Proof

/-- A list of executes runs its parts in order. -/
theorem execAll_append {is : List Instr} {s t : State} (js : List Instr) (h : execAll is s = .next t) :
    execAll (is ++ js) s = execAll js t := by
  induction is generalizing s with
  | nil => rw [Host.Outcome.next.inj h]; rfl
  | cons i rest ih =>
    obtain ⟨u, hu⟩ := exec_answers_next i s
    rw [execAll, hu] at h
    rw [List.cons_append, execAll, hu]
    exact ih h

/-- The first execute of a list. -/
theorem execAll_cons {i : Instr} {s t : State} (js : List Instr) (h : exec i s = .next t) :
    execAll (i :: js) s = execAll js t := by
  rw [execAll, h]

/-- `t` is `s` but for pc and the free slots of the stack: what calls that have all returned leave. -/
def KeepsFrames (s t : State) : Prop :=
  (∀ j (hj : j < 16), j < s.sp.val → t.stack[j] = s.stack[j]) ∧ { t with pc := s.pc, stack := s.stack } = s

/-- What keeps the frames keeps SP. -/
theorem KeepsFrames.sp {s t : State} (h : KeepsFrames s t) : t.sp = s.sp :=
  (congrArg State.sp h.2 :)

/-- A call, a part that keeps the frames and a return: pc is the address after the call (R116, R117). -/
theorem call_keepsFrames_ret {s : State} {is : List Instr} (nnn : Addr) (hsp : s.sp.val < 16)
    (his : ∀ u : State, u.sp.val = s.sp.val + 1 → ∃ t, execAll is u = .next t ∧ KeepsFrames u t) :
    ∃ t, execAll (.call nnn :: is ++ [.ret]) s = .next t ∧ t.pc = s.pc + 2 ∧ KeepsFrames s t := by
  obtain ⟨t, ht, hkeeps⟩ := his { s with
    stack := s.stack.set s.sp.val (s.pc + 2) hsp, sp := ⟨s.sp.val + 1, by omega⟩, pc := addrOperand nnn } rfl
  have htsp : t.sp.val = s.sp.val + 1 := congrArg Fin.val hkeeps.sp
  obtain ⟨hslots, hrest⟩ := hkeeps
  refine ⟨_, (execAll_cons _ (exec_call_of_lt nnn hsp)).trans
    ((execAll_append [.ret] ht).trans (execAll_cons [] (exec_ret_of_pos (by omega)))), ?_, fun j hj hlt => ?_, ?_⟩
  · simp only [htsp, Nat.add_sub_cancel]
    exact (hslots s.sp.val hsp (Nat.lt_succ_self _)).trans (Vector.getElem_set_self hsp)
  · exact (hslots j hj (Nat.lt_succ_of_lt hlt)).trans (Vector.getElem_set_ne hsp hj hlt.ne')
  · simp only [htsp, Nat.add_sub_cancel]
    exact congrArg (fun u : State => { u with pc := s.pc, stack := s.stack, sp := s.sp }) hrest

/-- Calls that fit the stack and as many returns keep the frames, by induction on the calls from the outermost in. -/
theorem execAll_calls_rets (as : List Addr) {s : State} (h : s.sp.val + as.length ≤ 16) :
    ∃ t, execAll (as.map Instr.call ++ List.replicate as.length Instr.ret) s = .next t ∧ KeepsFrames s t := by
  induction as generalizing s with
  | nil => exact ⟨s, rfl, fun _ _ _ => rfl, rfl⟩
  | cons a rest ih =>
    rw [List.length_cons] at h
    obtain ⟨t, ht, -, hkeeps⟩ := call_keepsFrames_ret (s := s) a (by omega) fun u hu => ih (s := u) (by omega)
    rw [List.length_cons, List.replicate_succ', ← List.append_assoc]
    exact ⟨t, ht, hkeeps⟩

/-- Calls that fit the stack occupy one slot each. -/
theorem execAll_calls (as : List Addr) {s : State} (h : s.sp.val + as.length ≤ 16) :
    ∃ t, execAll (as.map Instr.call) s = .next t ∧ t.sp.val = s.sp.val + as.length := by
  induction as generalizing s with
  | nil => exact ⟨s, rfl, rfl⟩
  | cons a rest ih =>
    rw [List.length_cons] at h ⊢
    have hcall := exec_call_of_lt a (show s.sp.val < 16 by omega)
    obtain ⟨t, ht, hsp⟩ := ih (s := { s with
      stack := s.stack.set s.sp.val (s.pc + 2) (by omega), sp := ⟨s.sp.val + 1, by omega⟩, pc := addrOperand a })
      (by simp only; omega)
    exact ⟨t, (execAll_cons _ hcall).trans ht, by simp only at hsp; omega⟩

/-- Settles O30: the inner calls and returns keep the frame of the first call, and at depth 16 a call faults. -/
theorem nestedCallsReturnInOrder : Obligations.NestedCallsReturnInOrder := by
  intro first rest s h
  constructor
  · obtain ⟨t, ht, hpc, hkeeps⟩ := call_keepsFrames_ret first (show s.sp.val < 16 by omega)
      fun u hu => execAll_calls_rets rest (s := u) (by omega)
    rw [List.replicate_succ', ← List.append_assoc]
    exact ⟨t, ht, hpc, hkeeps.sp, hkeeps.2⟩
  · intro hfull a
    obtain ⟨t, ht, hsp⟩ := execAll_calls (first :: rest) (s := s) h
    have hfault := exec_call_of_full a (s := t) (by rw [hsp, List.length_cons, hfull])
    exact ⟨_, (execAll_append [.call a] ht).trans (execAll_cons [] hfault), _, rfl, rfl⟩

end Sys2Proof.Machine

/-! ## Memory stores and loads (42_index_memory R173 to R175; 20_memory R59, R63) -/

namespace Sys2Proof.Machine

open Sys2Proof

section
variable {s : State} {x : RegIdx}

/-- A block store in range (42_index_memory R174). -/
theorem exec_ldMemVx_of_in_range (h : s.index.toNat + x.toNat ≤ 0xFFF) :
    exec (.ldMemVx x) s = .next (s.writeBytes s.index.toNat (s.lowRegs x)).advance :=
  exec_of_not_faultsWhen (not_lt.mpr h)

/-- A block load in range (R175). -/
theorem exec_ldVxMem_of_in_range (h : s.index.toNat + x.toNat ≤ 0xFFF) :
    exec (.ldVxMem x) s = .next (s.loadRegs x).advance :=
  exec_of_not_faultsWhen (not_lt.mpr h)

/-- Moving on to the next instruction keeps what memory reads as. -/
@[simp] theorem State.readByte_advance (s : State) (a : Nat) : s.advance.readByte a = s.readByte a := rfl

/-- The block a block store in range has written (R174). -/
theorem readByte_writeBytes_lowRegs (hwf : Memory.wf s.params.font s.mem = true)
    (h : s.index.toNat + x.toNat ≤ 0xFFF) {k : RegIdx} (hk : k.toNat ≤ x.toNat) :
    (s.writeBytes s.index.toNat (s.lowRegs x)).readByte (s.index.toNat + k.toNat) = s.reg k := by
  have hlen := s.length_lowRegs x
  rw [s.readByte_writeBytes_in _ k.toNat _ hwf (by omega) (by unfold addrMax; omega), State.getElem_lowRegs]

/-- The bytes a block store has written, read in any later state with the same memory. -/
theorem readByte_after_ldMemVx {t u : State} (hwf : Memory.wf s.params.font s.mem = true)
    (h : s.index.toNat + x.toNat ≤ 0xFFF) (ht : exec (.ldMemVx x) s = .next t) (hmem : u.mem = t.mem)
    (hparams : u.params = t.params) {k : RegIdx} (hk : k.toNat ≤ x.toNat) :
    u.readByte (s.index.toNat + k.toNat) = s.reg k := by
  obtain rfl := Host.Outcome.next.inj ((exec_ldMemVx_of_in_range h).symm.trans ht)
  rw [State.readByte_congr hmem hparams, State.readByte_advance, readByte_writeBytes_lowRegs hwf h hk]

end

/-- The three decimal digits are the number (R173). -/
theorem bcdDigits_value (b : Byte) :
    ∃ hundreds tens units : Byte, bcdDigits b = [hundreds, tens, units] ∧
      hundreds.toNat * 100 + tens.toNat * 10 + units.toNat = b.toNat ∧
      hundreds.toNat ≤ 2 ∧ tens.toNat ≤ 9 ∧ units.toNat ≤ 9 := by
  have hlt := b.isLt
  refine ⟨_, _, _, rfl, ?_⟩
  simp only [BitVec.toNat_ofNat]
  omega

/-- Settles O43: the digits are the block stored at I. -/
theorem bcdStoresDecimalDigits : Obligations.BcdStoresDecimalDigits := by
  refine fun x s hwf => ⟨fun h => ?_, fun h => exec_of_faultsWhen h rfl⟩
  refine ⟨_, exec_of_not_faultsWhen (i := .ldBVx x) (not_lt.mpr h), ?_⟩
  obtain ⟨hundreds, tens, units, hdigits, hvalue, hh, ht, hu⟩ := bcdDigits_value (s.reg x)
  simp only [effect, hdigits, State.readByte_advance]
  have hread : ∀ k (hk : k < 3), (s.writeBytes s.index.toNat [hundreds, tens, units]).readByte (s.index.toNat + k) =
      [hundreds, tens, units][k] :=
    fun k hk => s.readByte_writeBytes_in _ k [hundreds, tens, units] hwf hk (by simp [addrMax]; omega)
  have h0 := hread 0 (by decide)
  have h1 := hread 1 (by decide)
  have h2 := hread 2 (by decide)
  simp only [Nat.add_zero, List.getElem_cons_zero, List.getElem_cons_succ] at h0 h1 h2
  rw [h0, h1, h2]
  refine ⟨hvalue, hh, ht, hu, fun a ha => s.readByte_writeBytes_other _ a _ ha, ?_, ?_⟩
  · simp
  · rw [State.writeBytes_eq]; rfl

/-- Settles O44: the registers are the block stored at I. -/
theorem blockStore : Obligations.BlockStore := by
  refine fun x s hwf => ⟨fun h => ?_, fun h => exec_of_faultsWhen h rfl⟩
  refine ⟨_, exec_ldMemVx_of_in_range h, fun k hk => readByte_writeBytes_lowRegs hwf h hk, fun a ha => ?_, ?_, ?_⟩
  · exact s.readByte_writeBytes_other _ a _ (by rw [State.length_lowRegs]; omega)
  · simp
  · rw [State.writeBytes_eq]; rfl

/-- Settles O45: a block load replaces V0 to V[x] and leaves the rest. -/
theorem blockLoad : Obligations.BlockLoad := by
  refine fun x s => ⟨fun h => ⟨_, exec_ldVxMem_of_in_range h, fun k => ?_, ?_⟩, fun h => exec_of_faultsWhen h rfl⟩
  · rw [State.reg_advance, State.reg_loadRegs]
  · simp

/-- Settles O46: the loaded bytes are the stored ones. -/
theorem blockLoadUndoesBlockStore : Obligations.BlockLoadUndoesBlockStore := by
  intro x s t u hwf h ht hmem hparams hindex
  have htindex : t.index = s.index := (executeKeepsUnlistedSpecialState _ s t ht).1 rfl
  have huindex : u.index = s.index := hindex.trans htindex
  refine ⟨_, exec_ldVxMem_of_in_range (by rwa [huindex]), fun k => ?_⟩
  rw [State.reg_advance, State.reg_loadRegs, huindex]
  split
  · next hk => exact readByte_after_ldMemVx hwf h ht hmem hparams hk
  · rfl

/-- Settles O47: the two bytes at pc are two of the stored ones. -/
theorem storedBytesAreFetched : Obligations.StoredBytesAreFetched := by
  intro x k k' s t hwf h hkk hk' ht u hmem hparams hpc
  have hread := fun {j : RegIdx} => readByte_after_ldMemVx (k := j) hwf h ht hmem hparams
  rw [State.fetchWord, hpc, Nat.add_assoc, hkk, hread (by omega), hread hk', wordOfBytes]

end Sys2Proof.Machine

/-! ## The blitter (43_blitter R191 to R196): the draw loop as the XOR of a set of cells -/

namespace Sys2Proof.Machine

open Sys2Proof

section
variable (f : Framebuffer)

/-- A flip inverts its one cell (00_scope R11). -/
theorem Framebuffer.cell_flip {px py qx qy : Nat} (hqx : qx < 64) (hqy : qy < 32) :
    (f.flip px py).cell qx qy = (f.cell qx qy ^^ decide (qx = px ∧ qy = py)) := by
  by_cases hpy : py < 32
  · simp only [Framebuffer.flip, Framebuffer.cell, dif_pos hpy, dif_pos hqy]
    by_cases h : qy = py
    · subst h
      simp [hqx, eq_comm]
    · simp [Vector.getElem_set_ne _ _ (Ne.symm h), h]
  · have hne : qy ≠ py := by omega
    simp [Framebuffer.flip, hpy, hne]

/-- Framebuffers with the same cells on the grid are equal. -/
theorem Framebuffer.ext_of_cell {f g : Framebuffer}
    (h : ∀ px py, px < 64 → py < 32 → f.cell px py = g.cell px py) : f = g := by
  refine Vector.ext fun py hpy => BitVec.eq_of_getLsbD_eq fun px hpx => ?_
  simpa [Framebuffer.cell, hpy] using h px py hpx hpy

end

/-- The loop has gone from `d` to `e` by inverting the cells of `cov`: each cell is its old value XOR `cov`, the
collision says whether `cov` hit a set cell, and `changed` whether it hit the grid at all. -/
structure Draws (cov : Nat → Nat → Bool) (d e : Blit) : Prop where
  cell : ∀ px py, px < 64 → py < 32 → e.fb.cell px py = (d.fb.cell px py ^^ cov px py)
  collision : e.collision = true ↔ d.collision = true ∨ SomeCell (fun px py => d.fb.cell px py && cov px py)
  changed : e.changed = true ↔ d.changed = true ∨ SomeCell cov

/-- What holds of some cell depends on the grid only. -/
theorem someCell_congr {P Q : Nat → Nat → Bool} (h : ∀ px py, px < 64 → py < 32 → P px py = Q px py) :
    SomeCell P ↔ SomeCell Q := by
  refine exists_congr fun px => exists_congr fun py => and_congr_right fun hx => and_congr_right fun hy => ?_
  rw [h px py hx hy]

theorem someCell_or {P Q : Nat → Nat → Bool} :
    SomeCell (fun px py => P px py || Q px py) ↔ SomeCell P ∨ SomeCell Q := by
  simp only [SomeCell, Bool.or_eq_true, and_or_left, exists_or]

/-- A property asked of one cell of the grid alone. -/
theorem someCell_single {P : Nat → Nat → Bool} {px py : Nat} (hx : px < 64) (hy : py < 32) :
    SomeCell (fun qx qy => P qx qy && decide (qx = px ∧ qy = py)) ↔ P px py = true := by
  simp only [SomeCell, Bool.and_eq_true, decide_eq_true_eq]
  constructor
  · rintro ⟨_, _, -, -, hP, rfl, rfl⟩
    exact hP
  · exact fun hP => ⟨px, py, hx, hy, hP, rfl, rfl⟩

section
variable {cov cov' : Nat → Nat → Bool} {d e g : Blit}

/-- Two covers that agree on the grid draw the same. -/
theorem Draws.congr (h : Draws cov d e) (heq : ∀ px py, px < 64 → py < 32 → cov px py = cov' px py) :
    Draws cov' d e where
  cell px py hx hy := by rw [h.cell px py hx hy, heq px py hx hy]
  collision := by
    rw [h.collision]
    exact or_congr_right (someCell_congr fun px py hx hy => by rw [heq px py hx hy])
  changed := by rw [h.changed, someCell_congr heq]

/-- Nothing drawn. -/
theorem Draws.refl (d : Blit) : Draws (fun _ _ => false) d d := by
  constructor <;> simp [SomeCell]

/-- Two draws of disjoint covers are the draw of both: the second one meets the cells as they were (R194). -/
theorem Draws.trans (h : Draws cov d e) (h' : Draws cov' e g) (hdisj : ∀ px py, cov px py = true → cov' px py = false) :
    Draws (fun px py => cov px py || cov' px py) d g where
  cell px py hx hy := by
    rw [h'.cell px py hx hy, h.cell px py hx hy]
    cases hc : cov px py
    · simp
    · simp [hdisj px py hc]
  collision := by
    have hhit : SomeCell (fun px py => e.fb.cell px py && cov' px py) ↔
        SomeCell (fun px py => d.fb.cell px py && cov' px py) := by
      refine someCell_congr fun px py hx hy => ?_
      rw [h.cell px py hx hy]
      cases hc : cov px py
      · simp
      · simp [hdisj px py hc]
    rw [h'.collision, h.collision, hhit, or_assoc, ← someCell_or]
    simp only [Bool.and_or_distrib_left]
  changed := by rw [h'.changed, h.changed, or_assoc, ← someCell_or]

end

/-- One pixel of the loop draws its cell, if its bit is 1 and it is on the grid (R191). -/
theorem blitPixel_draws {px py : Nat} (hpy : py < 32) (bit : Bool) (d : Blit) :
    Draws (fun qx qy => decide (qx = px ∧ qy = py) && bit) d (blitPixel px py bit d) := by
  unfold blitPixel
  split
  · next hout =>
    refine (Draws.refl d).congr fun qx qy hqx _ => ?_
    have hne : qx ≠ px := by omega
    simp [hne]
  · next hin =>
    cases bit
    · exact (Draws.refl d).congr fun _ _ _ _ => by simp
    · have hpx : px < 64 := by omega
      simp only [Bool.and_true, if_true]
      refine ⟨fun qx qy hqx hqy => d.fb.cell_flip hqx hqy, ?_, ?_⟩
      · rw [someCell_single hpx hpy, Bool.or_eq_true]
      · have hone := someCell_single (P := fun _ _ => true) hpx hpy
        simp only [Bool.true_and] at hone
        exact iff_of_true rfl (.inr (hone.mpr trivial))

/-- The cover of the first `m` pixels of a sprite row `b` at column `x0` and row `py`. -/
def rowCovers (b : Byte) (x0 py m qx qy : Nat) : Bool :=
  decide (qy = py ∧ x0 ≤ qx ∧ qx < x0 + m) && spriteBit b (qx - x0)

/-- One row of the loop, by induction on the pixels done (R192). -/
theorem foldl_blitPixel_draws (b : Byte) (x0 : Nat) {py : Nat} (hpy : py < 32) (d : Blit) (m : Nat) :
    Draws (rowCovers b x0 py m) d
      ((List.range m).foldl (fun e c => blitPixel (x0 + c) py (spriteBit b c) e) d) := by
  induction m with
  | zero => exact (Draws.refl d).congr fun qx qy _ _ => by simp [rowCovers]
  | succ m ih =>
    rw [List.range_succ, List.foldl_append]
    refine (ih.trans (blitPixel_draws hpy (spriteBit b m) _) fun qx qy hrow => ?_).congr fun qx qy _ _ => ?_
    · have hne : qx ≠ x0 + m := by
        simp only [rowCovers, Bool.and_eq_true, decide_eq_true_eq] at hrow
        omega
      simp [hne]
    · by_cases hlast : qx = x0 + m
      · subst hlast
        simp [rowCovers]
      · have hle : qx < x0 + (m + 1) ↔ qx < x0 + m := by omega
        simp [rowCovers, hlast, hle]

/-- A row of the loop draws its eight pixels; a row below the grid draws none that is on it (R191). -/
theorem blitRow_draws (b : Byte) (x0 py : Nat) (d : Blit) : Draws (rowCovers b x0 py 8) d (blitRow b x0 py d) := by
  unfold blitRow
  split
  · next hout =>
    refine (Draws.refl d).congr fun qx qy _ hqy => ?_
    have hne : qy ≠ py := by omega
    simp [rowCovers, hne]
  · next hin => exact foldl_blitPixel_draws b x0 (by omega) d 8

/-- The cover of the sprite rows `rows`, the first at row `py`. -/
def rowsCover (rows : List Byte) (x0 py qx qy : Nat) : Bool :=
  decide (py ≤ qy) && (rows[qy - py]?).any fun b => rowCovers b x0 qy 8 qx qy

/-- The rows of the loop, by induction on the sprite bytes left. -/
theorem blitRows_draws (rows : List Byte) (x0 py : Nat) (d : Blit) :
    Draws (rowsCover rows x0 py) d (blitRows x0 py rows d) := by
  induction rows generalizing py d with
  | nil => exact (Draws.refl d).congr fun qx qy _ _ => by simp [rowsCover]
  | cons b rest ih =>
    refine ((blitRow_draws b x0 py d).trans (ih (py + 1) _) fun qx qy hrow => ?_).congr fun qx qy _ _ => ?_
    · have hqy : qy = py := by
        simp only [rowCovers, Bool.and_eq_true, decide_eq_true_eq] at hrow
        omega
      simp [rowsCover, hqy]
    · obtain hlt | rfl | ⟨k, rfl⟩ : qy < py ∨ py = qy ∨ ∃ k, qy = py + 1 + k := by
        obtain hlt | heq | hgt := lt_trichotomy qy py
        · exact .inl hlt
        · exact .inr (.inl heq.symm)
        · exact .inr (.inr (Nat.exists_eq_add_of_le hgt))
      · have hne : qy ≠ py := by omega
        have hnot : ¬ py ≤ qy := by omega
        have hnot' : ¬ py + 1 ≤ qy := by omega
        simp [rowsCover, rowCovers, hne, hnot, hnot']
      · simp [rowsCover]
      · have hk : py + 1 + k - py = k + 1 := by omega
        have hne : py + 1 + k ≠ py := by omega
        have hle : py ≤ py + 1 + k := by omega
        simp [rowsCover, rowCovers, hk, hne, hle]

/-- The whole draw inverts the cells the sprite covers (R191 to R193). -/
theorem drawSprite_draws (x y : RegIdx) (n : BitVec 4) (s : State) :
    Draws (spriteCovers x y n s) { fb := s.fb, collision := false, changed := false } (drawSprite x y n s) := by
  refine (blitRows_draws _ _ _ _).congr fun qx qy _ _ => ?_
  change _ = (decide (originX x s ≤ qx ∧ qx < originX x s + 8 ∧ originY y s ≤ qy ∧ qy < originY y s + n.toNat)
    && spriteBit (s.readByte (s.index.toNat + (qy - originY y s))) (qx - originX x s))
  by_cases hle : originY y s ≤ qy
  · obtain ⟨k, rfl⟩ := Nat.exists_eq_add_of_le hle
    by_cases hk : k < n.toNat
    · simp [rowsCover, rowCovers, State.readBytes, hk]
    · simp [rowsCover, State.readBytes, hk]
  · simp [rowsCover, hle]

/-- A draw in range (R191, R195). -/
theorem exec_drw_of_in_range {x y : RegIdx} {n : BitVec 4} {s : State}
    (h : n = 0 ∨ s.index.toNat + n.toNat - 1 ≤ 0xFFF) :
    exec (.drw x y n) s = .next (effect (.drw x y n) s) :=
  exec_of_not_faultsWhen fun hf => h.elim hf.1 (not_le_of_gt hf.2)

/-- Settles O49: the draw loop inverts the covered cells, and VF and dirty take its collision and change. -/
theorem drawXorsTheClippedSprite : Obligations.DrawXorsTheClippedSprite := by
  intro x y n s h
  obtain ⟨hcell, hcollision, hchanged⟩ := drawSprite_draws x y n s
  simp only [Bool.false_eq_true, false_or] at hcollision hchanged
  have hflag := reg_vf_effect_drw x y n s
  refine ⟨_, exec_drw_of_in_range h, hcell, fun hhit => ?_, fun hmiss => ?_, ?_, ?_, rfl, rfl⟩
  · exact hflag.trans (by rw [hcollision.mpr hhit]; rfl)
  · exact hflag.trans (by rw [Bool.eq_false_iff.mpr (mt hcollision.mp hmiss)]; rfl)
  · change (s.dirty || (drawSprite x y n s).changed) = true ↔ _
    rw [Bool.or_eq_true, hchanged]
  · exact fun r hr => effect_reg s (beq_eq_false_iff_ne.mpr hr)

/-- Settles O50: the second draw covers the same cells, so each is inverted twice. -/
theorem drawingTwiceErases : Obligations.DrawingTwiceErases := by
  intro x y n s t hx hy h ht
  obtain ⟨t', ht', hcell, hhit, -, -, hregs, -, hrest⟩ := drawXorsTheClippedSprite x y n s h
  obtain rfl := Host.Outcome.next.inj (ht'.symm.trans ht)
  have hindex : t'.index = s.index := (congrArg State.index hrest :)
  have hcov : spriteCovers x y n t' = spriteCovers x y n s := by
    have hread : ∀ a, t'.readByte a = s.readByte a :=
      State.readByte_congr (congrArg State.mem hrest :) (congrArg State.params hrest :)
    funext px py
    simp only [spriteCovers, hregs x hx, hregs y hy, hindex, hread]
  obtain ⟨u, hu, hcell', hhit', -⟩ := drawXorsTheClippedSprite x y n t' (by rwa [hindex])
  rw [hcov] at hcell' hhit'
  refine ⟨u, hu, Framebuffer.ext_of_cell fun px py hpx hpy => ?_, fun hclear ⟨px, py, hpx, hpy, hbit⟩ => ?_⟩
  · calc u.cell px py
      _ = (t'.cell px py ^^ spriteCovers x y n s px py) := hcell' px py hpx hpy
      _ = (s.cell px py ^^ spriteCovers x y n s px py ^^ spriteCovers x y n s px py) := by rw [hcell px py hpx hpy]
      _ = s.cell px py := by simp
  · have hold : s.cell px py = false := by
      by_contra hset
      have hone := hhit ⟨px, py, hpx, hpy, by simpa [hbit] using hset⟩
      simp [hclear] at hone
    exact hhit' ⟨px, py, hpx, hpy, by simp [hcell px py hpx hpy, hold, hbit]⟩

end Sys2Proof.Machine
